-- ==== Sys2Proof/Word.lean ====
section
/-! DEFINITION. The bit-vector types the spec's fields and registers have (00_scope.md R8, R12, R15). -/

namespace Sys2Proof

/-- A memory byte, a general register, a timer, the immediate `kk`. -/
abbrev Byte := BitVec 8

/-- An instruction word, the program counter, the index register, a stack entry. -/
abbrev Word := BitVec 16

/-- A register index `x` or `y`, the row count `n`, a logical key. -/
abbrev Nibble := BitVec 4

/-- The address field `nnn`. -/
abbrev Addr12 := BitVec 12

end Sys2Proof
end

