-- ==== Sys2Proof/Config.lean ====
section
/-! DEFINITION. The fixed parameters of the block (00_scope.md R8) and the one free value. -/

namespace Sys2Proof

/-- `MEM_SIZE`: bytes of memory (R8, R60). -/
abbrev Config.memSize : Nat := 4096

/-- `PROG_BASE`: where LOAD puts the image and where a program starts (R8, R274). -/
abbrev Config.progBase : Nat := 0x200

/-- `MAX_PROGRAM`: the longest image LOAD accepts (R8, R270). -/
abbrev Config.maxProgram : Nat := 3584

/-- `STACK_CAP`: entries of the call stack (R8, R37). -/
abbrev Config.stackCap : Nat := 16

/-- `FONT_BASE`: where the font starts (R8, R46). -/
abbrev Config.fontBase : Nat := 0

/-- `GLYPH_BYTES`: bytes of one glyph (R8, R46). -/
abbrev Config.glyphBytes : Nat := 5

/-- Bytes of the whole font: 16 glyphs (R46). -/
abbrev Config.fontBytes : Nat := 80

/-- `DISPLAY_W`: columns of the frame buffer (R8, R41). -/
abbrev Config.displayW : Nat := 64

/-- `DISPLAY_H`: rows of the frame buffer (R8, R41). -/
abbrev Config.displayH : Nat := 32

/-- `RANDOM`: the byte the n-th RND draws. FREE VALUE (R170, A1): the spec gives no generator, seed, distribution or
relation between draws, so this constant has no body and no proof can learn a value of it. Log entry 3; safe. -/
opaque Config.freeByte : Nat → Byte

end Sys2Proof
end

