-- ==== Sys2Proof/Syntax.lean ====
section
/-! DEFINITION. The 34 instruction forms, one constructor per row of opcode_table.json (30_encoding.md R85, R94, R96).
Operands have the widths of their fields (R83), so no operand can be out of range. -/

namespace Sys2Proof

/-- A CHIP-8 instruction, operands in the order of its assembly spelling (R94). -/
inductive Instr where
  /-- `CLS` (R201). -/
  | cls
  /-- `RET` (R133). -/
  | ret
  /-- `JP nnn` (R134). -/
  | jp (nnn : Addr12)
  /-- `CALL nnn` (R135). -/
  | call (nnn : Addr12)
  /-- `SE Vx, kk` (R136). -/
  | seImm (x : Nibble) (kk : Byte)
  /-- `SNE Vx, kk` (R137). -/
  | sneImm (x : Nibble) (kk : Byte)
  /-- `SE Vx, Vy` (R138). -/
  | seReg (x y : Nibble)
  /-- `LD Vx, kk` (R151). -/
  | ldImm (x : Nibble) (kk : Byte)
  /-- `ADD Vx, kk` (R152). -/
  | addImm (x : Nibble) (kk : Byte)
  /-- `LD Vx, Vy` (R153). -/
  | ldReg (x y : Nibble)
  /-- `OR Vx, Vy` (R154). -/
  | orReg (x y : Nibble)
  /-- `AND Vx, Vy` (R155). -/
  | andReg (x y : Nibble)
  /-- `XOR Vx, Vy` (R156). -/
  | xorReg (x y : Nibble)
  /-- `ADD Vx, Vy` (R157). -/
  | addReg (x y : Nibble)
  /-- `SUB Vx, Vy` (R158). -/
  | subReg (x y : Nibble)
  /-- `SHR Vx, Vy` (R165). -/
  | shr (x y : Nibble)
  /-- `SUBN Vx, Vy` (R159). -/
  | subnReg (x y : Nibble)
  /-- `SHL Vx, Vy` (R167). -/
  | shl (x y : Nibble)
  /-- `SNE Vx, Vy` (R139). -/
  | sneReg (x y : Nibble)
  /-- `LD I, nnn` (R180). -/
  | ldI (nnn : Addr12)
  /-- `JP V0, nnn` (R140). -/
  | jpV0 (nnn : Addr12)
  /-- `RND Vx, kk` (R171). -/
  | rnd (x : Nibble) (kk : Byte)
  /-- `DRW Vx, Vy, n` (R202). -/
  | drw (x y n : Nibble)
  /-- `SKP Vx` (R217). -/
  | skp (x : Nibble)
  /-- `SKNP Vx` (R218). -/
  | sknp (x : Nibble)
  /-- `LD Vx, DT` (R225). -/
  | ldVxDT (x : Nibble)
  /-- `LD Vx, K` (R219). -/
  | ldVxK (x : Nibble)
  /-- `LD DT, Vx` (R226). -/
  | ldDTVx (x : Nibble)
  /-- `LD ST, Vx` (R227). -/
  | ldSTVx (x : Nibble)
  /-- `ADD I, Vx` (R181). -/
  | addI (x : Nibble)
  /-- `LD F, Vx` (R182). -/
  | ldF (x : Nibble)
  /-- `LD B, Vx` (R183). -/
  | ldB (x : Nibble)
  /-- `LD [I], Vx` (R184). -/
  | storeRegs (x : Nibble)
  /-- `LD Vx, [I]` (R185). -/
  | loadRegs (x : Nibble)
  deriving DecidableEq, Repr

end Sys2Proof
end

