-- ==== Sys2Proof/WellFormed.lean ====
section
/-! DEFINITION. What is checked before a word or an image is used. Every term of `Instr` is well formed by the types of
its operands (30_encoding.md R83, R92: no operand value is reserved), so the checks here are about an instruction WORD,
which is legal if and only if it matches a row of opcode_table.json (R91), and about a program IMAGE, which must fit
(70_reset_and_hazards.md R270). -/

namespace Sys2Proof

/-- One row of opcode_table.json: a word `w` is of this form when `w & mask = pattern`. -/
structure OpcodeRow where
  pattern : Word
  mask : Word
  deriving DecidableEq, Repr

/-- The row matches the word (40_fetch_decode_execute.md R116). -/
def OpcodeRow.hits (r : OpcodeRow) (w : Word) : Bool := w &&& r.mask == r.pattern

/-- Rows of groups 0 to 7 and 9 to D: control transfer, immediates, index, random, draw. -/
def opcodeRowsPlain : List OpcodeRow :=
  [⟨0x00E0, 0xFFFF⟩, ⟨0x00EE, 0xFFFF⟩, ⟨0x1000, 0xF000⟩, ⟨0x2000, 0xF000⟩, ⟨0x3000, 0xF000⟩, ⟨0x4000, 0xF000⟩,
   ⟨0x5000, 0xF00F⟩, ⟨0x6000, 0xF000⟩, ⟨0x7000, 0xF000⟩, ⟨0x9000, 0xF00F⟩, ⟨0xA000, 0xF000⟩, ⟨0xB000, 0xF000⟩,
   ⟨0xC000, 0xF000⟩, ⟨0xD000, 0xF000⟩]

/-- Rows of group 8 (R87). -/
def opcodeRowsAlu : List OpcodeRow :=
  [⟨0x8000, 0xF00F⟩, ⟨0x8001, 0xF00F⟩, ⟨0x8002, 0xF00F⟩, ⟨0x8003, 0xF00F⟩, ⟨0x8004, 0xF00F⟩, ⟨0x8005, 0xF00F⟩,
   ⟨0x8006, 0xF00F⟩, ⟨0x8007, 0xF00F⟩, ⟨0x800E, 0xF00F⟩]

/-- Rows of groups E and F (R88, R89). -/
def opcodeRowsMisc : List OpcodeRow :=
  [⟨0xE09E, 0xF0FF⟩, ⟨0xE0A1, 0xF0FF⟩, ⟨0xF007, 0xF0FF⟩, ⟨0xF00A, 0xF0FF⟩, ⟨0xF015, 0xF0FF⟩, ⟨0xF018, 0xF0FF⟩,
   ⟨0xF01E, 0xF0FF⟩, ⟨0xF029, 0xF0FF⟩, ⟨0xF033, 0xF0FF⟩, ⟨0xF055, 0xF0FF⟩, ⟨0xF065, 0xF0FF⟩]

/-- opcode_table.json as data, independent of the decoder. -/
def opcodeRows : List OpcodeRow := opcodeRowsPlain ++ opcodeRowsAlu ++ opcodeRowsMisc

/-- A word is legal when some row matches it; every other word is illegal (R91). -/
def legalWord (w : Word) : Bool := opcodeRows.any (·.hits w)

/-- An image LOAD accepts: at most 3584 bytes, empty and odd lengths included (R270, R275). -/
def imageFits (bytes : List Byte) : Bool := bytes.length ≤ Config.maxProgram

end Sys2Proof
end

