-- ==== Sys2Proof/Decode.lean ====
section
/-! DEFINITION. The decoder (30_encoding.md R80 to R93) and, after it, the encoder written from the same table. -/

namespace Sys2Proof

/-- `g = w[15:12]` (R81). -/
def opGroup (w : Word) : Nibble := w.extractLsb' 12 4

/-- `x = w[11:8]` (R81). -/
def fieldX (w : Word) : Nibble := w.extractLsb' 8 4

/-- `y = w[7:4]` (R81). -/
def fieldY (w : Word) : Nibble := w.extractLsb' 4 4

/-- `n = w[3:0]` (R81). -/
def fieldN (w : Word) : Nibble := w.extractLsb' 0 4

/-- `kk = w[7:0]` (R81). -/
def fieldKK (w : Word) : Byte := w.extractLsb' 0 8

/-- `nnn = w[11:0]` (R81). -/
def fieldNNN (w : Word) : Addr12 := w.extractLsb' 0 12

/-- The byte at the lower address is the high byte of the word (20_memory.md R64). -/
def wordOfBytes (hi lo : Byte) : Word := hi ++ lo

/-- The byte of a word stored at the lower address (R64). -/
def highByte (w : Word) : Byte := w.extractLsb' 8 8

/-- The byte of a word stored at the higher address (R64). -/
def lowByte (w : Word) : Byte := w.extractLsb' 0 8

/-- Group 0 is decoded on the whole word (R86): only CLS and RET. -/
def decodeGroup0 (w : Word) : Option Instr :=
  if w = 0x00E0 then some .cls else if w = 0x00EE then some .ret else none

/-- Group 8 is decoded on `n` (R87). -/
def decodeGroup8 (x y n : Nibble) : Option Instr :=
  match n.toNat with
  | 0x0 => some (.ldReg x y)
  | 0x1 => some (.orReg x y)
  | 0x2 => some (.andReg x y)
  | 0x3 => some (.xorReg x y)
  | 0x4 => some (.addReg x y)
  | 0x5 => some (.subReg x y)
  | 0x6 => some (.shr x y)
  | 0x7 => some (.subnReg x y)
  | 0xE => some (.shl x y)
  | _ => none

/-- Group E is decoded on `kk` (R88). -/
def decodeGroupE (x : Nibble) (kk : Byte) : Option Instr :=
  if kk = 0x9E then some (.skp x) else if kk = 0xA1 then some (.sknp x) else none

/-- Group F is decoded on `kk` (R89). -/
def decodeGroupF (x : Nibble) (kk : Byte) : Option Instr :=
  if kk = 0x07 then some (.ldVxDT x)
  else if kk = 0x0A then some (.ldVxK x)
  else if kk = 0x15 then some (.ldDTVx x)
  else if kk = 0x18 then some (.ldSTVx x)
  else if kk = 0x1E then some (.addI x)
  else if kk = 0x29 then some (.ldF x)
  else if kk = 0x33 then some (.ldB x)
  else if kk = 0x55 then some (.storeRegs x)
  else if kk = 0x65 then some (.loadRegs x)
  else none

/-- Groups 5 and 9 need `n = 0` (R90). -/
def whenZero (n : Nibble) (i : Instr) : Option Instr := if n = 0 then some i else none

/-- `Decode(w)` (R85, R93, 40_fetch_decode_execute.md R116): the instruction of the word, or none if it is illegal (R91).
It reads nothing but the word. -/
def decodeWord (w : Word) : Option Instr :=
  match (opGroup w).toNat with
  | 0x0 => decodeGroup0 w
  | 0x1 => some (.jp (fieldNNN w))
  | 0x2 => some (.call (fieldNNN w))
  | 0x3 => some (.seImm (fieldX w) (fieldKK w))
  | 0x4 => some (.sneImm (fieldX w) (fieldKK w))
  | 0x5 => whenZero (fieldN w) (.seReg (fieldX w) (fieldY w))
  | 0x6 => some (.ldImm (fieldX w) (fieldKK w))
  | 0x7 => some (.addImm (fieldX w) (fieldKK w))
  | 0x8 => decodeGroup8 (fieldX w) (fieldY w) (fieldN w)
  | 0x9 => whenZero (fieldN w) (.sneReg (fieldX w) (fieldY w))
  | 0xA => some (.ldI (fieldNNN w))
  | 0xB => some (.jpV0 (fieldNNN w))
  | 0xC => some (.rnd (fieldX w) (fieldKK w))
  | 0xD => some (.drw (fieldX w) (fieldY w) (fieldN w))
  | 0xE => decodeGroupE (fieldX w) (fieldKK w)
  | _ => decodeGroupF (fieldX w) (fieldKK w)

/-- Why bytes are no instruction. -/
inductive DecodeReject where
  /-- The word matches no row of the opcode table (R91). -/
  | illegalWord (w : Word)
  /-- Fewer than the two bytes every instruction has (R80). -/
  | truncated
  deriving DecidableEq, Repr

/-- The decoder on bytes: one instruction from the front of the list and the bytes after it, or the reason there is
none (R64, R80, R91). -/
def decode (bytes : List Byte) : Except DecodeReject (Instr × List Byte) :=
  match bytes with
  | hi :: lo :: rest =>
    match decodeWord (wordOfBytes hi lo) with
    | some i => .ok (i, rest)
    | none => .error (.illegalWord (wordOfBytes hi lo))
  | _ => .error .truncated

/-- Format `NNN` (R82). -/
def packNNN (g : Nibble) (nnn : Addr12) : Word := g ++ nnn

/-- Format `XKK`, and `XS` where `kk` is the selector (R82). -/
def packXKK (g x : Nibble) (kk : Byte) : Word := g ++ x ++ kk

/-- Format `XYN` (R82). -/
def packXYN (g x y n : Nibble) : Word := g ++ x ++ y ++ n

/-- The word of an instruction, from the rows of opcode_table.json (R82, R85 to R90). -/
def encode (i : Instr) : Word :=
  match i with
  | .cls => 0x00E0
  | .ret => 0x00EE
  | .jp nnn => packNNN 0x1 nnn
  | .call nnn => packNNN 0x2 nnn
  | .seImm x kk => packXKK 0x3 x kk
  | .sneImm x kk => packXKK 0x4 x kk
  | .seReg x y => packXYN 0x5 x y 0x0
  | .ldImm x kk => packXKK 0x6 x kk
  | .addImm x kk => packXKK 0x7 x kk
  | .ldReg x y => packXYN 0x8 x y 0x0
  | .orReg x y => packXYN 0x8 x y 0x1
  | .andReg x y => packXYN 0x8 x y 0x2
  | .xorReg x y => packXYN 0x8 x y 0x3
  | .addReg x y => packXYN 0x8 x y 0x4
  | .subReg x y => packXYN 0x8 x y 0x5
  | .shr x y => packXYN 0x8 x y 0x6
  | .subnReg x y => packXYN 0x8 x y 0x7
  | .shl x y => packXYN 0x8 x y 0xE
  | .sneReg x y => packXYN 0x9 x y 0x0
  | .ldI nnn => packNNN 0xA nnn
  | .jpV0 nnn => packNNN 0xB nnn
  | .rnd x kk => packXKK 0xC x kk
  | .drw x y n => packXYN 0xD x y n
  | .skp x => packXKK 0xE x 0x9E
  | .sknp x => packXKK 0xE x 0xA1
  | .ldVxDT x => packXKK 0xF x 0x07
  | .ldVxK x => packXKK 0xF x 0x0A
  | .ldDTVx x => packXKK 0xF x 0x15
  | .ldSTVx x => packXKK 0xF x 0x18
  | .addI x => packXKK 0xF x 0x1E
  | .ldF x => packXKK 0xF x 0x29
  | .ldB x => packXKK 0xF x 0x33
  | .storeRegs x => packXKK 0xF x 0x55
  | .loadRegs x => packXKK 0xF x 0x65

/-- The two bytes of an instruction at ascending addresses (R64). -/
def encodeBytes (i : Instr) : List Byte := [highByte (encode i), lowByte (encode i)]

/-- A word of opcode_table.json's numbering: its bits from `nbits` up are 0, and one word has 16 bits. -/
def tableWord (nbits w : Nat) : Word := BitVec.ofNat 16 (w % 2 ^ nbits)

/-- The host's question to the decoder: the bits laid out as two big-endian bytes, then decoded. -/
def decodeTableWord (nbits w : Nat) : Option Instr :=
  match decode [highByte (tableWord nbits w), lowByte (tableWord nbits w)] with
  | .ok (i, _) => some i
  | .error _ => none

end Sys2Proof
end

