-- ==== Sys2Proof/Machine/Font.lean ====
section
/-! DEFINITION. `FONT_GLYPHS` (10_state.md R46): the type of the parameter, and the default the spec gives it. The machine
takes any font: `State.resetWith` (State.lean) is the machine built with a given one, `State.reset` the one built with the
default. The default's bytes are PRESUMED: the spec takes them from general knowledge; log entry 1, unsafe. A claim that
needs a glyph's bytes must say so. -/

namespace Sys2Proof.Machine

open Sys2Proof

/-- A value of the parameter `FONT_GLYPHS`: 80 bytes (93_implementation_defined.md A13), digit d's glyph at 5 * d (R46). -/
abbrev Font := Vector Byte 80

/-- Default glyphs of the digits 0 to 7 (R46). -/
def fontLow : List Byte :=
  [0xF0, 0x90, 0x90, 0x90, 0xF0,  0x20, 0x60, 0x20, 0x20, 0x70,
   0xF0, 0x10, 0xF0, 0x80, 0xF0,  0xF0, 0x10, 0xF0, 0x10, 0xF0,
   0x90, 0x90, 0xF0, 0x10, 0x10,  0xF0, 0x80, 0xF0, 0x10, 0xF0,
   0xF0, 0x80, 0xF0, 0x90, 0xF0,  0xF0, 0x10, 0x20, 0x40, 0x40]

/-- Default glyphs of the digits 8 to F (R46). -/
def fontHigh : List Byte :=
  [0xF0, 0x90, 0xF0, 0x90, 0xF0,  0xF0, 0x90, 0xF0, 0x10, 0xF0,
   0xF0, 0x90, 0xF0, 0x90, 0x90,  0xE0, 0x90, 0xE0, 0x90, 0xE0,
   0xF0, 0x80, 0x80, 0x80, 0xF0,  0xE0, 0x90, 0x90, 0x90, 0xE0,
   0xF0, 0x80, 0xF0, 0x80, 0xF0,  0xF0, 0x80, 0xF0, 0x80, 0x80]

/-- The default of `FONT_GLYPHS` (R46, D18, G3). -/
def standardFont : Font := ⟨(fontLow ++ fontHigh).toArray, rfl⟩

end Sys2Proof.Machine
end

