-- ==== Sys2Proof/Machine/State.lean ====
section
/-! DEFINITION. The machine's state, whole (10_state.md), the reasons a command can stop, and the state after reset
(R47, R48). -/

namespace Sys2Proof.Machine

open Sys2Proof

/-- Memory as the cells that differ from what an unlisted address reads as (Ops.lean, `Memory.unlisted`), addresses
strictly rising. -/
abbrev Memory := List Host.Cell

/-- The frame buffer: 64 columns of 32 pixels, true is lit (R41). -/
abbrev FrameBuffer := Vector (Vector Bool 32) 64

/-- Everything the spec gives the machine (10_state.md R30 to R52), the parameter `FONT_GLYPHS`, which every RESET
and LOAD installs again, and one field of the model's own, `draws`. -/
structure State where
  /-- `FONT_GLYPHS` (R46, 93_implementation_defined.md A13): a parameter, the same for the whole life of the machine. No
  command writes it. -/
  font : Font
  /-- V0 to VF; VF is also the flag (R30, R31). -/
  v : Vector Byte 16
  /-- The index register I (R33). -/
  i : Word
  /-- The program counter: between commands the next fetch address, during an instruction the fetch address plus 2 (R34). -/
  pc : Word
  /-- The call stack S[0] to S[15], outside memory (R37). -/
  stack : Vector Word 16
  /-- SP: 16 is empty, 0 is full (R37). -/
  sp : Nat
  /-- The delay timer DT (R38). -/
  dt : Byte
  /-- The sound timer ST (R39). -/
  st : Byte
  /-- M, 4096 bytes (R40, R60). -/
  mem : Memory
  /-- FB[c][r] (R41). -/
  fb : FrameBuffer
  /-- KEY[k]: true is pressed (R42). -/
  key : Vector Bool 16
  /-- The register a key wait will write, if the machine waits (R43). -/
  pendingKey : Option Nibble
  /-- True once a program is loaded, false while Unloaded or waiting (R44). -/
  running : Bool
  /-- The MODEL's own: how many random bytes have been drawn. It picks the next free byte (R170, log entry 3). -/
  draws : Nat
  deriving DecidableEq, Repr

/-- The block's error kinds (60_exceptions.md R240). -/
inductive Fault where
  /-- Raised by STEP when pc > 4094; the state is unchanged (R112, R241). Safe: the spec's own error. -/
  | programCounterOutOfBounds (pc : Word)
  /-- Raised by STEP on an illegal word; pc has advanced by 2 and nothing else changed (R116, R243). Safe: the spec's
  own error. The state it leaves is in `stepCommand`, log entry 6. -/
  | unknownOpcode (w pcF : Word)
  /-- Raised by LOAD when the image is longer than 3584 bytes, never by STEP; the state is unchanged (R244, R270). Safe:
  the spec's own error. -/
  | programTooLarge (len : Nat)
  deriving DecidableEq, Repr

/-- Reasons to give an instruction no meaning. The spec gives every instruction its effect, so no arm of `exec` uses one. -/
inductive Refusal where
  /-- An instruction without a meaning, by its mnemonic in opcode_table.json. Raised by no one. Safe: it stops. -/
  | notModelled (mnemonic : String)
  deriving DecidableEq, Repr

/-- What executing an instruction answers. -/
abbrev Result := Host.Outcome State Fault Refusal

/-- The machine with a given font, right after RESET and at construction (R47, R48, 70_reset_and_hazards.md R271, R272).
Memory lists nothing: every byte reads as the reset contents. `draws` is the model's own, DESIGN CHOICE, log entry 3. -/
def State.resetWith (font : Font) : State where
  font := font
  v := Vector.replicate 16 0
  i := 0
  pc := 0x200
  stack := Vector.replicate 16 0
  sp := 16
  dt := 0
  st := 0
  mem := []
  fb := Vector.replicate 64 (Vector.replicate 32 false)
  key := Vector.replicate 16 false
  pendingKey := none
  running := false
  draws := 0

/-- The machine after reset with the font that R46 gives as the parameter's default (log entry 1). -/
def State.reset : State := State.resetWith standardFont

end Sys2Proof.Machine
end

