-- ==== Sys2Proof/Machine/Ops.lean ====
section
/-! DEFINITION. The named operations over memory, registers, the call stack, the frame buffer and the run status. Every
meaning goes through them. There is no exception entry and no return from exception to share: the block has no trap
mechanism (60_exceptions.md R248, R249). -/

namespace Sys2Proof.Machine

open Sys2Proof

/-! ### Memory (20_memory.md) -/

/-- What an address that no cell lists reads as: the contents RESET leaves, the machine's font from 0x000 (`FONT_BASE`) on
and 0 elsewhere (R46, R47, R272). -/
def Memory.unlisted (font : Font) (a : Nat) : Byte := if h : a < Config.fontBytes then font[a] else 0

/-- The byte at a physical address (R60). It has no side effect (R67). -/
def Memory.read (font : Font) (m : Memory) (a : Nat) : Byte :=
  match m with
  | [] => Memory.unlisted font a
  | (b, v) :: rest => if a = b then v else Memory.read font rest a

/-- Put a cell before the first cell of a larger address. -/
def Memory.insert (c : Host.Cell) (m : Memory) : Memory :=
  match m with
  | [] => [c]
  | d :: rest => if c.1 < d.1 then c :: d :: rest else d :: Memory.insert c rest

/-- Drop every cell of an address, so that it reads as the reset contents again. -/
def Memory.forget (m : Memory) (a : Nat) : Memory := m.filter (·.1 ≠ a)

/-- Write one byte (R67: only that byte changes). The canonical form is kept: writing what an unlisted address reads as
removes the cell. -/
def Memory.write (font : Font) (m : Memory) (a : Nat) (v : Byte) : Memory :=
  if v = Memory.unlisted font a then Memory.forget m a else Memory.insert (a, v) (Memory.forget m a)

/-- The canonical form: addresses strictly rising, all inside memory, and no cell equal to what its address reads as
when unlisted. -/
abbrev Memory.wf (font : Font) (m : Memory) : Prop :=
  m.Pairwise (fun c d => c.1 < d.1) ∧ ∀ c ∈ m, c.1 < Config.memSize ∧ c.2 ≠ Memory.unlisted font c.1

/-- The memory address translator, `Xlate(a) = a mod 4096` (R62). -/
def xlate (a : Nat) : Nat := a % Config.memSize

/-- Write consecutive bytes from an address on, ascending, each address translated (R62, R63). -/
def Memory.writeBytes (font : Font) (m : Memory) (a : Nat) (bytes : List Byte) : Memory :=
  match bytes with
  | [] => m
  | b :: rest => Memory.writeBytes font (Memory.write font m (xlate a) b) (a + 1) rest

/-- `M[a]`: the byte at a physical address of a state (R60). -/
def State.byteAt (s : State) (a : Nat) : Byte := Memory.read s.font s.mem a

/-- `MemRead(a, 1)` (00_scope.md R14). -/
def State.memRead (s : State) (a : Nat) : Byte := s.byteAt (xlate a)

/-- `MemWrite` of consecutive bytes (R14, R63). -/
def State.memWriteBytes (s : State) (a : Nat) (bytes : List Byte) : State :=
  { s with mem := Memory.writeBytes s.font s.mem a bytes }

/-! ### Registers (10_state.md R30 to R39) -/

/-- `V[x]` (R13, R30). -/
def State.getV (s : State) (x : Nibble) : Byte := s.v[x.toNat]'x.isLt

/-- `V[x] <- val` (R13, R30). -/
def State.setV (s : State) (x : Nibble) (val : Byte) : State := { s with v := s.v.set x.toNat val x.isLt }

/-- Write the flag register VF, register 15 (R31). -/
def State.setFlag (s : State) (flag : Byte) : State := s.setV 0xF flag

/-- `I <- a` (R33). -/
def State.setI (s : State) (a : Word) : State := { s with i := a }

/-- `pc <- target` (R14, R34). -/
def State.setPc (s : State) (target : Word) : State := { s with pc := target }

/-- `DT <- a` (R38). -/
def State.setDT (s : State) (a : Byte) : State := { s with dt := a }

/-- `ST <- a` (R39). -/
def State.setST (s : State) (a : Byte) : State := { s with st := a }

/-- The advance before execution, `pc <- pcF + 2` (40_fetch_decode_execute.md R114). -/
def State.advance (s : State) : State := s.setPc (s.pc + 2)

/-- A skip adds a further 2 to the advanced pc (R114, 41_control_transfer.md R136). -/
def State.skipIf (s : State) (cond : Bool) : State := if cond then s.setPc (s.pc + 2) else s

/-- Load V0 up to but not including V[count] from consecutive addresses, ascending, each address translated
(43_index_memory.md R185). -/
def State.loadV (s : State) (a : Nat) (count : Nat) : State :=
  match count with
  | 0 => s
  | k + 1 => (s.loadV a k).setV (BitVec.ofNat 4 k) (s.memRead (a + k))

/-- V0 up to but not including V[count], in register order (R184). -/
def State.firstV (s : State) (count : Nat) : List Byte := s.v.toList.take count

/-! ### The call stack (41_control_transfer.md R130 to R132) -/

/-- What the stack engine logs; an output of the step, not state (60_exceptions.md R247). -/
inductive Diagnostic where
  /-- CALL on a full stack. -/
  | stackOverflow
  /-- RET on an empty stack. -/
  | stackUnderflow
  deriving DecidableEq, Repr

/-- The defensive clamp, `if SP > 16: SP <- 16` (R130). -/
def clampSp (sp : Nat) : Nat := if sp > Config.stackCap then Config.stackCap else sp

/-- `Push(a)`: store below the top, or drop the push when the stack is full (R131). -/
def State.push (s : State) (a : Word) : State :=
  if clampSp s.sp = 0 then { s with sp := 0 }
  else { s with sp := clampSp s.sp - 1, stack := s.stack.setIfInBounds (clampSp s.sp - 1) a }

/-- The diagnostic `Push` reports (R131). -/
def State.pushDiagnostic (s : State) : Option Diagnostic :=
  if clampSp s.sp = 0 then some .stackOverflow else none

/-- The address `Pop()` returns: the most recent entry, or 0 when the stack is empty (R132). -/
def State.popValue (s : State) : Word :=
  if h : clampSp s.sp < Config.stackCap then s.stack[clampSp s.sp] else 0

/-- What `Pop()` does to the stack: the pointer moves up, the entry stays (R132). -/
def State.pop (s : State) : State :=
  if clampSp s.sp < Config.stackCap then { s with sp := clampSp s.sp + 1 } else { s with sp := Config.stackCap }

/-- The diagnostic `Pop()` reports (R132). -/
def State.popDiagnostic (s : State) : Option Diagnostic :=
  if clampSp s.sp < Config.stackCap then none else some .stackUnderflow

/-! ### The frame buffer (10_state.md R41, 44_display.md R200) -/

/-- Every pixel off (R201). -/
def FrameBuffer.clear : FrameBuffer := Vector.replicate 64 (Vector.replicate 32 false)

/-- The pixel at a column and a row, both wrapped to the screen (R202). -/
def FrameBuffer.pixel (fb : FrameBuffer) (c r : Nat) : Bool :=
  (fb[c % 64]'(Nat.mod_lt c (by decide)))[r % 32]'(Nat.mod_lt r (by decide))

/-- Toggle the pixel at a column and a row, both wrapped to the screen (R202). -/
def FrameBuffer.toggle (fb : FrameBuffer) (c r : Nat) : FrameBuffer :=
  fb.set (c % 64)
    ((fb[c % 64]'(Nat.mod_lt c (by decide))).set (r % 32) (!fb.pixel c r) (Nat.mod_lt r (by decide)))
    (Nat.mod_lt c (by decide))

/-- The pixel `FB[c][r]` of a state. -/
def State.pixel (s : State) (c r : Nat) : Bool := FrameBuffer.pixel s.fb c r

/-- Replace the frame buffer. -/
def State.setFb (s : State) (fb : FrameBuffer) : State := { s with fb := fb }

/-! ### Keys, run status, random draws -/

/-- `KEY[k]` (10_state.md R42). -/
def State.keyDown (s : State) (k : Nibble) : Bool := s.key[k.toNat]'k.isLt

/-- STEP does work only when running and not waiting for a key (40_fetch_decode_execute.md R111). -/
def State.isReady (s : State) : Bool := s.running && s.pendingKey.isNone

/-- Wait for a key for a register (45_keypad_timers.md R219). -/
def State.awaitKey (s : State) (x : Nibble) : State := { s with pendingKey := some x, running := false }

/-- The byte of the next `RandomByte()`: a free value (42_alu.md R170, log entry 3). -/
def State.nextRandom (s : State) : Byte := Config.freeByte s.draws

/-- The draw has been made: the next one is a fresh byte (R170, log entry 3). -/
def State.countDraw (s : State) : State := { s with draws := s.draws + 1 }

end Sys2Proof.Machine
end

