-- ==== Sys2Proof/Machine/Operands.lean ====
section
/-! DEFINITION. How operands become addresses, targets and keys (30_encoding.md R83, 43_index_memory.md R186). -/

namespace Sys2Proof.Machine

open Sys2Proof

/-- `zext_16(nnn)` (R83). -/
def addrWord (nnn : Addr12) : Word := nnn.setWidth 16

/-- `zext_16(a)` of a register value (00_scope.md R12). -/
def byteWord (a : Byte) : Word := a.setWidth 16

/-- The address of the k-th byte of a data access, `I + k` before translation (R186). -/
def State.dataAddr (s : State) (k : Nat) : Nat := s.i.toNat + k

/-- The low nibble of a register value. -/
def lowNibble (a : Byte) : Nibble := a.extractLsb' 0 4

/-- `keyOf(a) = a & 0xF` (45_keypad_timers.md R216). -/
def keyOf (a : Byte) : Nibble := lowNibble a

/-- The address of a digit's glyph, `FONT_BASE + 5 * (a & 0xF)` (43_index_memory.md R182). -/
def glyphAddr (a : Byte) : Word := BitVec.ofNat 16 (Config.fontBase + Config.glyphBytes * (lowNibble a).toNat)

/-- The target of `JP V0, nnn`, `zext_16(nnn) + zext_16(a)` (41_control_transfer.md R140). -/
def offsetTarget (nnn : Addr12) (a : Byte) : Word := addrWord nnn + byteWord a

/-- The decimal digits of a register: hundreds, tens, ones (43_index_memory.md R183). -/
def bcdDigits (a : Byte) : List Byte :=
  [BitVec.ofNat 8 (a.toNat / 100), BitVec.ofNat 8 (a.toNat / 10 % 10), BitVec.ofNat 8 (a.toNat % 10)]

end Sys2Proof.Machine
end

