-- ==== Sys2Proof/Machine/Flags.lean ====
section
/-! DEFINITION. Every value written to VF (10_state.md R31) and the exact results before they are cut to 8 bits
(40_fetch_decode_execute.md R122, 42_alu.md R160). -/

namespace Sys2Proof.Machine

open Sys2Proof

/-- A flag as a register value: 1 or 0. -/
def flagByte (b : Bool) : Byte := if b then 1 else 0

/-- `trunc_8` (00_scope.md R12). -/
def trunc8 (n : Nat) : Byte := BitVec.ofNat 8 n

/-- The exact sum, 0 to 510 (42_alu.md R152, R157). -/
def exactSum (a b : Byte) : Nat := a.toNat + b.toNat

/-- The carry out of a sum (R152, R157). -/
def carryFlag (a b : Byte) : Byte := flagByte (decide (exactSum a b > 255))

/-- The difference before it is cut to 8 bits, `a - b + 256` (R158, R159). -/
def borrowedDiff (a b : Byte) : Nat := a.toNat + 256 - b.toNat

/-- 1 means no borrow: the minuend is at least the subtrahend (R158, R159). -/
def noBorrowFlag (a b : Byte) : Byte := flagByte (decide (a.toNat ≥ b.toNat))

/-- The bit SHR shifts out (R165). -/
def lowBitFlag (b : Byte) : Byte := flagByte (b.getLsbD 0)

/-- The bit SHL shifts out (R167). -/
def highBitFlag (b : Byte) : Byte := flagByte (b.getLsbD 7)

/-- Write the destination, then the flag, so that the flag wins when the destination is VF (R121). -/
def State.setResult (s : State) (x : Nibble) (result flag : Byte) : State := (s.setV x result).setFlag flag

end Sys2Proof.Machine
end

