-- ==== Sys2Proof/Machine/Alu.lean ====
section
/-! DEFINITION. Loads, arithmetic, shifts and random (42_alu.md R150 to R171). Every operand is read from the state on
entry (R120). -/

namespace Sys2Proof.Machine

open Sys2Proof

/-- `LD Vx, kk` (R151). -/
def execLdImm (x : Nibble) (kk : Byte) (s : State) : Result := .next (s.setV x kk)

/-- `ADD Vx, kk`: the carry goes to VF (R152). -/
def execAddImm (x : Nibble) (kk : Byte) (s : State) : Result :=
  .next (s.setResult x (trunc8 (exactSum (s.getV x) kk)) (carryFlag (s.getV x) kk))

/-- `LD Vx, Vy` (R153). -/
def execLdReg (x y : Nibble) (s : State) : Result := .next (s.setV x (s.getV y))

/-- `OR Vx, Vy`: VF is not written (R154). -/
def execOrReg (x y : Nibble) (s : State) : Result := .next (s.setV x (s.getV x ||| s.getV y))

/-- `AND Vx, Vy`: VF is not written (R155). -/
def execAndReg (x y : Nibble) (s : State) : Result := .next (s.setV x (s.getV x &&& s.getV y))

/-- `XOR Vx, Vy`: VF is not written (R156). -/
def execXorReg (x y : Nibble) (s : State) : Result := .next (s.setV x (s.getV x ^^^ s.getV y))

/-- `ADD Vx, Vy` (R157). -/
def execAddReg (x y : Nibble) (s : State) : Result :=
  .next (s.setResult x (trunc8 (exactSum (s.getV x) (s.getV y))) (carryFlag (s.getV x) (s.getV y)))

/-- `SUB Vx, Vy`: Vx - Vy (R158). -/
def execSubReg (x y : Nibble) (s : State) : Result :=
  .next (s.setResult x (trunc8 (borrowedDiff (s.getV x) (s.getV y))) (noBorrowFlag (s.getV x) (s.getV y)))

/-- `SUBN Vx, Vy`: Vy - Vx (R159). -/
def execSubnReg (x y : Nibble) (s : State) : Result :=
  .next (s.setResult x (trunc8 (borrowedDiff (s.getV y) (s.getV x))) (noBorrowFlag (s.getV y) (s.getV x)))

/-- `SHR Vx, Vy`: the source is Vy (R165, R166). -/
def execShr (x y : Nibble) (s : State) : Result :=
  .next (s.setResult x (s.getV y >>> 1) (lowBitFlag (s.getV y)))

/-- `SHL Vx, Vy`: the source is Vy (R167). -/
def execShl (x y : Nibble) (s : State) : Result :=
  .next (s.setResult x (s.getV y <<< 1) (highBitFlag (s.getV y)))

/-- `RND Vx, kk`: a fresh random byte, masked (R170, R171). -/
def execRnd (x : Nibble) (kk : Byte) (s : State) : Result := .next (s.countDraw.setV x (s.nextRandom &&& kk))

end Sys2Proof.Machine
end

