-- ==== Sys2Proof/Machine/Control.lean ====
section
/-! DEFINITION. Control transfer (41_control_transfer.md R133 to R142). On entry pc is pcF + 2 (R114). A target is not
checked here (R142). -/

namespace Sys2Proof.Machine

open Sys2Proof

/-- `RET`: `pc <- Pop()` (R133). -/
def execRet (s : State) : Result := .next (s.pop.setPc s.popValue)

/-- `JP nnn` (R134). -/
def execJp (nnn : Addr12) (s : State) : Result := .next (s.setPc (addrWord nnn))

/-- `CALL nnn`: push pcF + 2, then jump; the jump is taken even when the push is dropped (R135). -/
def execCall (nnn : Addr12) (s : State) : Result := .next ((s.push s.pc).setPc (addrWord nnn))

/-- `SE Vx, kk` (R136). -/
def execSeImm (x : Nibble) (kk : Byte) (s : State) : Result := .next (s.skipIf (s.getV x == kk))

/-- `SNE Vx, kk` (R137). -/
def execSneImm (x : Nibble) (kk : Byte) (s : State) : Result := .next (s.skipIf (s.getV x != kk))

/-- `SE Vx, Vy` (R138). -/
def execSeReg (x y : Nibble) (s : State) : Result := .next (s.skipIf (s.getV x == s.getV y))

/-- `SNE Vx, Vy` (R139). -/
def execSneReg (x y : Nibble) (s : State) : Result := .next (s.skipIf (s.getV x != s.getV y))

/-- `JP V0, nnn` (R140). -/
def execJpV0 (nnn : Addr12) (s : State) : Result := .next (s.setPc (offsetTarget nnn (s.getV 0)))

end Sys2Proof.Machine
end

