-- ==== Sys2Proof/Machine/Display.lean ====
section
/-! DEFINITION. The frame buffer instructions (44_display.md R201 to R204). -/

namespace Sys2Proof.Machine

open Sys2Proof

/-- A drawing in progress: the frame buffer and whether a lit pixel has been turned off. -/
structure Drawing where
  fb : FrameBuffer
  collision : Bool
  deriving DecidableEq, Repr

/-- "Sprite bit b" of a row byte is its bit 7 - b (R204). -/
def spriteBit (row : Byte) (b : Nat) : Bool := row.getLsbD (7 - b)

/-- XOR one sprite bit onto the screen (R202, the body of the inner loop). -/
def Drawing.plot (d : Drawing) (c r : Nat) (bit : Bool) : Drawing :=
  if bit then ⟨d.fb.toggle c r, d.collision || d.fb.pixel c r⟩ else d

/-- The first `count` bits of one sprite row, ascending (R202, the inner loop). -/
def Drawing.row (d : Drawing) (cx line : Nat) (byte : Byte) (count : Nat) : Drawing :=
  match count with
  | 0 => d
  | b + 1 => (d.row cx line byte b).plot (cx + b) line (spriteBit byte b)

/-- The first `count` rows of a sprite, ascending; a row's byte is read through the translator (R202, the outer loop). -/
def Drawing.sprite (d : Drawing) (s : State) (cx cy : Nat) (count : Nat) : Drawing :=
  match count with
  | 0 => d
  | r + 1 => (d.sprite s cx cy r).row cx (cy + r) (s.memRead (s.dataAddr r)) 8

/-- The whole draw of `DRW Vx, Vy, n`, coordinates and base read before VF is written (R202, R203). -/
def State.draw (s : State) (x y n : Nibble) : Drawing :=
  (Drawing.mk s.fb false).sprite s (s.getV x).toNat (s.getV y).toNat n.toNat

/-- `CLS`: VF is not written (R201). -/
def execCls (s : State) : Result := .next (s.setFb FrameBuffer.clear)

/-- `DRW Vx, Vy, n` (R202). -/
def execDrw (x y n : Nibble) (s : State) : Result :=
  .next ((s.setFb (s.draw x y n).fb).setFlag (flagByte (s.draw x y n).collision))

end Sys2Proof.Machine
end

