-- ==== Sys2Proof/Machine/Index.lean ====
section
/-! DEFINITION. The index register and memory transfers (43_index_memory.md R180 to R186). -/

namespace Sys2Proof.Machine

open Sys2Proof

/-- `LD I, nnn` (R180). -/
def execLdI (nnn : Addr12) (s : State) : Result := .next (s.setI (addrWord nnn))

/-- `ADD I, Vx`: kept to 16 bits, VF is not written (R181). -/
def execAddI (x : Nibble) (s : State) : Result := .next (s.setI (s.i + byteWord (s.getV x)))

/-- `LD F, Vx` (R182). -/
def execLdF (x : Nibble) (s : State) : Result := .next (s.setI (glyphAddr (s.getV x)))

/-- `LD B, Vx`: three digits at I, I + 1, I + 2 (R183). -/
def execLdB (x : Nibble) (s : State) : Result := .next (s.memWriteBytes (s.dataAddr 0) (bcdDigits (s.getV x)))

/-- `LD [I], Vx`: V0 to Vx, I unchanged (R184). -/
def execStoreRegs (x : Nibble) (s : State) : Result :=
  .next (s.memWriteBytes (s.dataAddr 0) (s.firstV (x.toNat + 1)))

/-- `LD Vx, [I]`: V0 to Vx, I unchanged (R185). -/
def execLoadRegs (x : Nibble) (s : State) : Result := .next (s.loadV (s.dataAddr 0) (x.toNat + 1))

end Sys2Proof.Machine
end

