-- ==== Sys2Proof/Machine/KeyTimer.lean ====
section
/-! DEFINITION. Keypad and timer instructions (45_keypad_timers.md R216 to R227). -/

namespace Sys2Proof.Machine

open Sys2Proof

/-- `SKP Vx` (R217). -/
def execSkp (x : Nibble) (s : State) : Result := .next (s.skipIf (s.keyDown (keyOf (s.getV x))))

/-- `SKNP Vx` (R218). -/
def execSknp (x : Nibble) (s : State) : Result := .next (s.skipIf (!s.keyDown (keyOf (s.getV x))))

/-- `LD Vx, DT` (R225). -/
def execLdVxDT (x : Nibble) (s : State) : Result := .next (s.setV x s.dt)

/-- `LD Vx, K`: wait; Vx is written later, by SUBMIT_KEY (R219). -/
def execLdVxK (x : Nibble) (s : State) : Result := .next (s.awaitKey x)

/-- `LD DT, Vx` (R226). -/
def execLdDTVx (x : Nibble) (s : State) : Result := .next (s.setDT (s.getV x))

/-- `LD ST, Vx` (R227). -/
def execLdSTVx (x : Nibble) (s : State) : Result := .next (s.setST (s.getV x))

end Sys2Proof.Machine
end

