-- ==== Sys2Proof/Machine/Cycle.lean ====
section
/-! DEFINITION. The fetch-decode-execute stage (40_fetch_decode_execute.md R110 to R118): what STEP does, in two views.
`runCycle` answers one of the host's three outcomes. `stepCommand` answers the spec's StepOutcome and the state the
command leaves, errors included. -/

namespace Sys2Proof.Machine

open Sys2Proof

/-- Both bytes of an instruction at pc are inside memory: pc <= 4094 (R112). -/
def State.fetchInBounds (s : State) : Bool := decide (s.pc.toNat + 1 < Config.memSize)

/-- The word at pc, big-endian, untranslated (R113). -/
def State.fetch16 (s : State) : Word :=
  wordOfBytes (s.byteAt s.pc.toNat) (s.byteAt (s.pc.toNat + 1))

/-- STEP (R110): the gate, the bound, fetch, advance, decode, execute, checked in this order (60_exceptions.md R246). -/
def runCycle (s : State) : Result :=
  if s.isReady then
    if s.fetchInBounds then
      match decodeWord s.fetch16 with
      | some i => exec i s.advance
      | none => .fault (.unknownOpcode s.fetch16 s.pc)
    else .fault (.programCounterOutOfBounds s.pc)
  else .next s

/-- The diagnostic an instruction reports from the state it runs in: only CALL and RET have one (R118, R247). -/
def diagnosticOf (i : Instr) (s : State) : Option Diagnostic :=
  match i with
  | .call _ => s.pushDiagnostic
  | .ret => s.popDiagnostic
  | .cls | .jp _ | .seImm _ _ | .sneImm _ _ | .seReg _ _ | .sneReg _ _ | .jpV0 _ => none
  | .ldImm _ _ | .addImm _ _ | .ldReg _ _ | .orReg _ _ | .andReg _ _ | .xorReg _ _ | .addReg _ _ | .subReg _ _ => none
  | .shr _ _ | .subnReg _ _ | .shl _ _ | .rnd _ _ | .drw _ _ _ => none
  | .ldI _ | .addI _ | .ldF _ | .ldB _ | .storeRegs _ | .loadRegs _ => none
  | .skp _ | .sknp _ | .ldVxDT _ | .ldVxK _ | .ldDTVx _ | .ldSTVx _ => none

/-- The code of a diagnostic (60_exceptions.md R247). -/
def Diagnostic.code (d : Diagnostic) : Nat :=
  match d with
  | .stackOverflow => 1
  | .stackUnderflow => 2

/-- The code of an error (60_exceptions.md R240). -/
def Fault.code (e : Fault) : Nat :=
  match e with
  | .programCounterOutOfBounds _ => 1
  | .unknownOpcode _ _ => 2
  | .programTooLarge _ => 3

/-- What STEP returns (R118). -/
inductive StepOutcome where
  /-- The gate is closed (R111). -/
  | idle
  /-- A legal instruction ran (R117). -/
  | executed (d : Option Diagnostic)
  /-- The bound check or the decoder failed (R112, R116). -/
  | error (e : Fault)
  deriving DecidableEq, Repr

/-- The state an execution leaves. The second argument stands for an outcome without a next state, which no instruction
has (R117). -/
def stateAfter (r : Result) (s : State) : State :=
  match r with
  | .next t => t
  | .fault _ => s
  | .refused _ => s

/-- The STEP command (R110, R118): its outcome and the state it leaves. After UnknownOpcode pc has advanced, after
ProgramCounterOutOfBounds nothing has changed, and in both cases the host may go on (60_exceptions.md R249). -/
def stepCommand (s : State) : StepOutcome × State :=
  if s.isReady then
    if s.fetchInBounds then
      match decodeWord s.fetch16 with
      | some i => (.executed (diagnosticOf i s.advance), stateAfter (exec i s.advance) s)
      | none => (.error (.unknownOpcode s.fetch16 s.pc), s.advance)
    else (.error (.programCounterOutOfBounds s.pc), s)
  else (.idle, s)

/-- The fetch address of `withFetchWord`: pc itself, or the entry point where nothing can be fetched at pc (log entry 4). -/
def State.placeAt (s : State) : Word := if s.fetchInBounds then s.pc else BitVec.ofNat 16 Config.progBase

/-- Store a word where the next STEP fetches and make the machine Ready, as LOAD leaves it (70_reset_and_hazards.md R274;
log entry 4). -/
def State.placeWord (s : State) (w : Word) : State :=
  { s with
    pc := s.placeAt
    mem := Memory.writeBytes s.font s.mem s.placeAt.toNat [highByte w, lowByte w]
    pendingKey := none
    running := true }

end Sys2Proof.Machine
end

