-- ==== Sys2Proof/Machine/Step.lean ====
section
/-! DEFINITION. One step of the machine is one STEP command (40_fetch_decode_execute.md R110). The host's other commands
are in Commands.lean. -/

namespace Sys2Proof.Machine

open Sys2Proof

/-- One STEP: a next state (Idle or Executed) or the spec's error. -/
def step (s : State) : Host.Outcome State Fault Refusal := runCycle s

/-- The state in which the next step runs the instruction whose bits are `w`, numbered as opcode_table.json numbers
them. It stands for a LOAD of that word (log entry 4). -/
def State.withFetchWord (s : State) (nbits w : Nat) : State := s.placeWord (tableWord nbits w)

end Sys2Proof.Machine
end

