-- ==== Sys2Proof/Machine/Commands.lean ====
section
/-! DEFINITION. The block's interface: six commands and four read ports (00_scope.md R10). Commands run one at a time
(20_memory.md R70), so any interleaving of STEP, TICK, key writes, resets and loads is a list of commands. -/

namespace Sys2Proof.Machine

open Sys2Proof

/-- `RESET`: every element of the spec's state at its reset value, in any status, with the machine's own font
(70_reset_and_hazards.md R272, R273). The model's draw counter goes on, so that draws after a reset are fresh ones (log entry 3). -/
def resetCommand (s : State) : State := { State.resetWith s.font with draws := s.draws }

/-- `LOAD(bytes)` when the image fits: reset, copy, start (R274). -/
def loadImage (s : State) (bytes : List Byte) : State :=
  { (resetCommand s).memWriteBytes Config.progBase bytes with running := true }

/-- `TICK`: while running, both timers count down, floored at zero (60_exceptions.md R255). -/
def tickCommand (s : State) : State :=
  if s.running then { s with dt := BitVec.ofNat 8 (s.dt.toNat - 1), st := BitVec.ofNat 8 (s.st.toNat - 1) } else s

/-- `SET_KEYS(k)`: the whole key vector, in any status (45_keypad_timers.md R215). -/
def setKeysCommand (s : State) (k : Vector Bool 16) : State := { s with key := k }

/-- `SUBMIT_KEY(id)`: end a key wait, or nothing when the machine is not waiting (45_keypad_timers.md R224). -/
def submitKeyCommand (s : State) (id : Nibble) : State :=
  match s.pendingKey with
  | some x => { s.setV x (id.setWidth 8) with pendingKey := none, running := true }
  | none => s

/-- The commands (R10). -/
inductive Command where
  | reset
  | load (bytes : List Byte)
  | step
  | tick
  | setKeys (k : Vector Bool 16)
  | submitKey (id : Nibble)
  deriving DecidableEq, Repr

/-- What a command returns. -/
inductive Reply where
  /-- RESET, TICK, SET_KEYS and SUBMIT_KEY return nothing. -/
  | done
  /-- LOAD returned Ok (R274). -/
  | loaded
  /-- LOAD returned an error (R270). -/
  | loadError (e : Fault)
  /-- What STEP returned (R118). -/
  | stepped (o : StepOutcome)
  deriving DecidableEq, Repr

/-- Carry out one command: its reply and the state it leaves (R10, 20_memory.md R70). -/
def runCommand (c : Command) (s : State) : Reply × State :=
  match c with
  | .reset => (.done, resetCommand s)
  | .load bytes =>
    if imageFits bytes then (.loaded, loadImage s bytes) else (.loadError (.programTooLarge bytes.length), s)
  | .step => (.stepped (stepCommand s).1, (stepCommand s).2)
  | .tick => (.done, tickCommand s)
  | .setKeys k => (.done, setKeysCommand s k)
  | .submitKey id => (.done, submitKeyCommand s id)

/-- The reply is an error (60_exceptions.md R240). -/
def Reply.isError (r : Reply) : Bool :=
  match r with
  | .done => false
  | .loaded => false
  | .loadError _ => true
  | .stepped .idle => false
  | .stepped (.executed _) => false
  | .stepped (.error _) => true

/-- Carry out commands in order. `haltsOnError` is the host's error policy, which the spec leaves open as a parameter
(93_implementation_defined.md A4, 92_eei_decisions.md D38; log entry 7). -/
def runCommands (haltsOnError : Bool) (cs : List Command) (s : State) : List Reply × State :=
  match cs with
  | [] => ([], s)
  | c :: rest =>
    if haltsOnError && (runCommand c s).1.isError then ([(runCommand c s).1], (runCommand c s).2)
    else ((runCommand c s).1 :: (runCommands haltsOnError rest (runCommand c s).2).1,
      (runCommands haltsOnError rest (runCommand c s).2).2)

/-! ### Read ports (R10) -/

/-- The run status (10_state.md R44). -/
inductive RunStatus where
  | unloaded
  | ready
  | waitingForKey
  deriving DecidableEq, Repr

/-- The run-status port; none for the pair R44 calls unreachable. -/
def State.runStatus (s : State) : Option RunStatus :=
  match s.running, s.pendingKey with
  | false, none => some .unloaded
  | true, none => some .ready
  | false, some _ => some .waitingForKey
  | true, some _ => none

/-- The display port: the grid FB[c][r] (44_display.md R212). -/
def State.framePort (s : State) : FrameBuffer := s.fb

/-- The sound-active output, `ST != 0` (60_exceptions.md R257). -/
def State.soundActive (s : State) : Bool := s.st != 0

/-- What the state-inspection port shows (60_exceptions.md R242): every element of the spec's state, and not the
parameter `FONT_GLYPHS` or the model's draw counter. -/
structure Inspection where
  v : Vector Byte 16
  i : Word
  pc : Word
  sp : Nat
  stack : Vector Word 16
  dt : Byte
  st : Byte
  /-- M[0] to M[4095]. -/
  bytes : List Byte
  fb : FrameBuffer
  key : Vector Bool 16
  pendingKey : Option Nibble
  running : Bool
  deriving DecidableEq, Repr

/-- The state-inspection port (R242). -/
def State.inspect (s : State) : Inspection where
  v := s.v
  i := s.i
  pc := s.pc
  sp := s.sp
  stack := s.stack
  dt := s.dt
  st := s.st
  bytes := (List.range Config.memSize).map s.byteAt
  fb := s.fb
  key := s.key
  pendingKey := s.pendingKey
  running := s.running

end Sys2Proof.Machine
end

