-- ==== Sys2Proof/Safety.lean ====
section
/-! DEFINITION. The terms the claims use: the invariant, the parts of the state a frame names, and the drawing law's
sprite pixel. -/

namespace Sys2Proof.Safety

open Sys2Proof Sys2Proof.Machine

/-- The pieces of the state a frame can say are kept. -/
inductive Part where
  /-- V0 to VF. -/
  | regs
  /-- I. -/
  | index
  /-- pc. -/
  | pc
  /-- S[0] to S[15] and SP. -/
  | stack
  /-- DT. -/
  | delay
  /-- ST. -/
  | sound
  /-- M, every byte of it. -/
  | memory
  /-- FB, every pixel of it. -/
  | display
  /-- KEY[0] to KEY[15]. -/
  | keys
  /-- running and pendingKey. -/
  | status
  /-- The parameter `FONT_GLYPHS`, which nothing may change. -/
  | font
  /-- The model's count of random draws. -/
  | draws
  deriving DecidableEq, Repr

/-- A part is the same in two states, read through the model's accessors. -/
def Keeps (p : Part) (s t : State) : Prop :=
  match p with
  | .regs => ∀ r : Nibble, t.getV r = s.getV r
  | .index => t.i = s.i
  | .pc => t.pc = s.pc
  | .stack => t.sp = s.sp ∧ t.stack = s.stack
  | .delay => t.dt = s.dt
  | .sound => t.st = s.st
  | .memory => ∀ a : Nat, t.byteAt a = s.byteAt a
  | .display => ∀ c r : Nat, t.pixel c r = s.pixel c r
  | .keys => t.key = s.key
  | .status => t.running = s.running ∧ t.pendingKey = s.pendingKey
  | .font => t.font = s.font
  | .draws => t.draws = s.draws

/-- Every part is kept but those listed. -/
def KeepsAllBut (ps : List Part) (s t : State) : Prop := ∀ p : Part, p ∉ ps → Keeps p s t

/-- The invariant of the machine: memory in canonical form (20_memory.md R60); 0 <= SP <= 16 (10_state.md R37, R49);
never running while a key is pending (R44, R49); a stacked address at most 4096 and pc at most 0x10FE (R35). -/
structure Inv (s : State) : Prop where
  memWf : Memory.wf s.font s.mem
  spLe : s.sp ≤ 16
  status : ¬(s.running = true ∧ s.pendingKey.isSome = true)
  stackLe : ∀ k : Fin 16, (s.stack[k]).toNat ≤ 4096
  pcLe : s.pc.toNat ≤ 0x10FE

/-- The sprite bit that a draw of `n` rows with its corner at (cx, cy) lays on pixel (c, r), if any: the pixel lies less
than 8 columns right of and less than n rows below the corner, counted around the edges (44_display.md R202), and the
bit of the row byte counted from its most significant is set (R204). -/
def spriteCovers (s : State) (cx cy n c r : Nat) : Bool :=
  let dc := (c + (64 - cx % 64)) % 64
  let dr := (r + (32 - cy % 32)) % 32
  decide (dc < 8) && decide (dr < n) && (s.memRead (s.dataAddr dr)).getLsbD (7 - dc)

end Sys2Proof.Safety
end

