-- ==== Sys2Proof/Certificates/Slice0/Obligations.lean ====
section
/-! DEFINITION. The statements for the provers. Each docstring names the rule of spec/ it formalises and, where a clause
rests on a choice the spec or the model marks as its own, says so. `exec` runs with pc already at pcF + 2
(40_fetch_decode_execute.md R114, R124). The encoding clause of an instruction's statement is its row of
opcode_table.json, whose numbers the spec takes from the canonical CHIP-8 table (log entry 12). -/

open Sys2Proof Sys2Proof.Machine Sys2Proof.Safety

/-! ### Loads, arithmetic, shifts, random (42_alu.md) -/

/-- R151, R153: `LD Vx, kk` (6xkk) writes kk to Vx and `LD Vx, Vy` (8xy0) copies Vy to Vx, VF like any register; nothing
else changes. -/
def Obligations.RegisterLoadsWriteOnlyVx : Prop :=
  ∀ (s : State) (x y : Nibble) (kk : Byte),
    decodeWord (packXKK 0x6 x kk) = some (.ldImm x kk) ∧
    decodeWord (packXYN 0x8 x y 0x0) = some (.ldReg x y) ∧
    (∃ t, exec (.ldImm x kk) s = .next t ∧
      (∀ r : Nibble, t.getV r = if r = x then kk else s.getV r) ∧ KeepsAllBut [.regs] s t) ∧
    ∃ t, exec (.ldReg x y) s = .next t ∧
      (∀ r : Nibble, t.getV r = if r = x then s.getV y else s.getV r) ∧ KeepsAllBut [.regs] s t

/-- R152: `ADD Vx, kk` (7xkk) writes the sum modulo 256 to Vx and then the carry to VF. That
the flag wins when x is F is R121, the spec's decision D10. -/
def Obligations.AddImmediateWritesSumThenCarry : Prop :=
  ∀ (s : State) (x : Nibble) (kk : Byte),
    decodeWord (packXKK 0x7 x kk) = some (.addImm x kk) ∧
    ∃ t, exec (.addImm x kk) s = .next t ∧
      (∀ r : Nibble, t.getV r =
        if r = 0xF then (if (s.getV x).toNat + kk.toNat > 255 then 1 else 0)
        else if r = x then s.getV x + kk else s.getV r) ∧
      KeepsAllBut [.regs] s t

/-- R157: `ADD Vx, Vy` (8xy4), from the operands as they were before any write. That the carry
is written last is R121, the spec's decision D10. -/
def Obligations.AddRegisterWritesSumThenCarry : Prop :=
  ∀ (s : State) (x y : Nibble),
    decodeWord (packXYN 0x8 x y 0x4) = some (.addReg x y) ∧
    ∃ t, exec (.addReg x y) s = .next t ∧
      (∀ r : Nibble, t.getV r =
        if r = 0xF then (if (s.getV x).toNat + (s.getV y).toNat > 255 then 1 else 0)
        else if r = x then s.getV x + s.getV y else s.getV r) ∧
      KeepsAllBut [.regs] s t

/-- R158, R159, R160: SUB (8xy5) computes Vx - Vy, SUBN (8xy7) Vy - Vx, both modulo 256; VF is 1 when there is no borrow.
The polarity of the flag is the spec's decision D11 (R158 "This spec uses the no-borrow convention"). -/
def Obligations.SubtractWritesDifferenceThenNoBorrow : Prop :=
  ∀ (s : State) (x y : Nibble),
    decodeWord (packXYN 0x8 x y 0x5) = some (.subReg x y) ∧
    decodeWord (packXYN 0x8 x y 0x7) = some (.subnReg x y) ∧
    (∃ t, exec (.subReg x y) s = .next t ∧
      (∀ r : Nibble, t.getV r =
        if r = 0xF then (if (s.getV y).toNat ≤ (s.getV x).toNat then 1 else 0)
        else if r = x then s.getV x - s.getV y else s.getV r) ∧
      KeepsAllBut [.regs] s t) ∧
    ∃ t, exec (.subnReg x y) s = .next t ∧
      (∀ r : Nibble, t.getV r =
        if r = 0xF then (if (s.getV x).toNat ≤ (s.getV y).toNat then 1 else 0)
        else if r = x then s.getV y - s.getV x else s.getV r) ∧
      KeepsAllBut [.regs] s t

/-- R165: `SHR Vx, Vy` (8xy6) writes half of Vy, rounded down, to Vx and Vy's low bit to VF. That
the flag is written last is R121, the spec's decision D10. -/
def Obligations.ShiftRightHalvesVyAndFlagsItsLowBit : Prop :=
  ∀ (s : State) (x y : Nibble),
    decodeWord (packXYN 0x8 x y 0x6) = some (.shr x y) ∧
    ∃ t, exec (.shr x y) s = .next t ∧
      (∀ r : Nibble, t.getV r =
        if r = 0xF then BitVec.ofNat 8 ((s.getV y).toNat % 2)
        else if r = x then BitVec.ofNat 8 ((s.getV y).toNat / 2) else s.getV r) ∧
      KeepsAllBut [.regs] s t

/-- R167: `SHL Vx, Vy` (8xyE) writes twice Vy, modulo 256, to Vx and Vy's high bit to VF. That the source is Vy is the
spec's decision D12 (R167 "this spec takes it from SHR's example"). -/
def Obligations.ShiftLeftDoublesVyAndFlagsItsHighBit : Prop :=
  ∀ (s : State) (x y : Nibble),
    decodeWord (packXYN 0x8 x y 0xE) = some (.shl x y) ∧
    ∃ t, exec (.shl x y) s = .next t ∧
      (∀ r : Nibble, t.getV r =
        if r = 0xF then BitVec.ofNat 8 ((s.getV y).toNat / 128)
        else if r = x then BitVec.ofNat 8 (2 * (s.getV y).toNat) else s.getV r) ∧
      KeepsAllBut [.regs] s t

/-- R154, R155, R156: OR (8xy1), AND (8xy2), XOR (8xy3) work bit by bit on Vx and Vy, write Vx alone. That VF stays is
the spec's decision D13 (R154 "VF is unchanged unless `x = 0xF`"). -/
def Obligations.BitwiseOpsWriteOnlyVx : Prop :=
  ∀ (s : State) (x y : Nibble),
    decodeWord (packXYN 0x8 x y 0x1) = some (.orReg x y) ∧
    decodeWord (packXYN 0x8 x y 0x2) = some (.andReg x y) ∧
    decodeWord (packXYN 0x8 x y 0x3) = some (.xorReg x y) ∧
    (∃ t, exec (.orReg x y) s = .next t ∧
      (∀ j, j < 8 → (t.getV x).getLsbD j = ((s.getV x).getLsbD j || (s.getV y).getLsbD j)) ∧
      (∀ r : Nibble, r ≠ x → t.getV r = s.getV r) ∧ KeepsAllBut [.regs] s t) ∧
    (∃ t, exec (.andReg x y) s = .next t ∧
      (∀ j, j < 8 → (t.getV x).getLsbD j = ((s.getV x).getLsbD j && (s.getV y).getLsbD j)) ∧
      (∀ r : Nibble, r ≠ x → t.getV r = s.getV r) ∧ KeepsAllBut [.regs] s t) ∧
    ∃ t, exec (.xorReg x y) s = .next t ∧
      (∀ j, j < 8 → (t.getV x).getLsbD j = xor ((s.getV x).getLsbD j) ((s.getV y).getLsbD j)) ∧
      (∀ r : Nibble, r ≠ x → t.getV r = s.getV r) ∧ KeepsAllBut [.regs] s t

/-- R170, R171: `RND Vx, kk` (Cxkk) writes the fresh byte masked by kk, so a bit that is 0 in kk is 0 in Vx, and kk = 0
gives 0 whatever the draw. That the fresh byte is the model's free value at its draw counter is log entry 3. -/
def Obligations.RandomWritesMaskedFreshByte : Prop :=
  ∀ (s : State) (x : Nibble) (kk : Byte),
    decodeWord (packXKK 0xC x kk) = some (.rnd x kk) ∧
    ∃ t, exec (.rnd x kk) s = .next t ∧
      t.getV x = Config.freeByte s.draws &&& kk ∧
      (∀ j, kk.getLsbD j = false → (t.getV x).getLsbD j = false) ∧
      (∀ r : Nibble, r ≠ x → t.getV r = s.getV r) ∧
      t.draws = s.draws + 1 ∧ KeepsAllBut [.regs, .draws] s t

/-! ### Control transfer (41_control_transfer.md) -/

/-- R134: `JP nnn` (1nnn) sets pc to nnn and changes nothing else. -/
def Obligations.JumpSetsOnlyPc : Prop :=
  ∀ (s : State) (nnn : Addr12),
    decodeWord (packNNN 0x1 nnn) = some (.jp nnn) ∧
    ∃ t, exec (.jp nnn) s = .next t ∧ t.pc.toNat = nnn.toNat ∧ KeepsAllBut [.pc] s t

/-- R140: `JP V0, nnn` (Bnnn) sets pc to nnn + V0, which never wraps. That the register is V0 is the spec's decision D15
(R140 "This spec uses V0"). -/
def Obligations.JumpWithOffsetAddsV0 : Prop :=
  ∀ (s : State) (nnn : Addr12),
    decodeWord (packNNN 0xB nnn) = some (.jpV0 nnn) ∧
    ∃ t, exec (.jpV0 nnn) s = .next t ∧ t.pc.toNat = nnn.toNat + (s.getV 0).toNat ∧
      KeepsAllBut [.pc] s t

/-- R131: the push of a CALL stores the return address below the top, or drops it with the StackOverflow diagnostic when
the stack is full, and touches no memory. The spec's decisions D37 (a pointer above 16 is first
clamped to 16, R130), D23 (the width of an entry) and D24 (the diagnostic is an output, R247, log entry 8) stand behind
it. -/
def Obligations.CallPushesReturnAddressOrReportsOverflow : Prop :=
  ∀ (s : State) (nnn : Addr12), ∃ t, exec (.call nnn) s = .next t ∧
    t.sp = min s.sp 16 - 1 ∧
    (∀ k : Fin 16, t.stack[k] = if k.val + 1 = min s.sp 16 then s.pc else s.stack[k]) ∧
    diagnosticOf (.call nnn) s = (if s.sp = 0 then some .stackOverflow else none) ∧
    KeepsAllBut [.stack, .pc] s t

/-- R135: `CALL nnn` (2nnn) sets pc to nnn. That the jump is taken on a full stack too is the spec's decision D22 (R135
"the jump to `nnn` is still taken"). -/
def Obligations.CallTakesTheJumpOnEveryStack : Prop :=
  ∀ (s : State) (nnn : Addr12),
    decodeWord (packNNN 0x2 nnn) = some (.call nnn) ∧
    ∃ t, exec (.call nnn) s = .next t ∧ t.pc.toNat = nnn.toNat ∧
      (s.sp = 0 → t.sp = 0 ∧ t.stack = s.stack)

/-- R132, R133: `RET` (00EE) sets pc to the most recent entry, or to 0 with the StackUnderflow diagnostic when the stack
is empty. That the popped entry keeps its value is the spec's decision D23 (R132 "A pop does not clear the entry"), the
clamp of a pointer above 16 is D37, and that the underflow is a diagnostic of the step's outcome is D24 (R247, log
entry 8). -/
def Obligations.ReturnPopsOrReportsUnderflow : Prop :=
  decodeWord 0x00EE = some .ret ∧
  ∀ s : State, ∃ t, exec .ret s = .next t ∧
    t.pc = (if h : s.sp < 16 then s.stack[s.sp] else 0) ∧
    t.sp = min (s.sp + 1) 16 ∧ t.stack = s.stack ∧
    diagnosticOf .ret s = (if s.sp < 16 then none else some .stackUnderflow) ∧
    KeepsAllBut [.stack, .pc] s t

/-- R133's "Call/return round-trip": whatever ran between, if the stack is again as CALL left it, RET goes back to the
address that followed the CALL and gives the stack pointer back. On a full stack the push is dropped, so sp > 0. -/
def Obligations.CallThenReturnRoundTrip : Prop :=
  ∀ (s t m u : State) (nnn : Addr12), 0 < s.sp → s.sp ≤ 16 →
    exec (.call nnn) s = .next t → m.sp = t.sp → m.stack = t.stack → exec .ret m = .next u →
    u.pc = s.pc ∧ u.sp = s.sp

/-- R136, R137: `SE Vx, kk` (3xkk) and `SNE Vx, kk` (4xkk) add 2 to the advanced pc when Vx equals, or differs from, kk,
and change nothing else. -/
def Obligations.ImmediateSkipsCompareVxWithKk : Prop :=
  ∀ (s : State) (x : Nibble) (kk : Byte),
    decodeWord (packXKK 0x3 x kk) = some (.seImm x kk) ∧
    decodeWord (packXKK 0x4 x kk) = some (.sneImm x kk) ∧
    (∃ t, exec (.seImm x kk) s = .next t ∧
      t.pc = (if s.getV x = kk then s.pc + 2 else s.pc) ∧ KeepsAllBut [.pc] s t) ∧
    ∃ t, exec (.sneImm x kk) s = .next t ∧
      t.pc = (if s.getV x = kk then s.pc else s.pc + 2) ∧ KeepsAllBut [.pc] s t

/-- R138, R139: `SE Vx, Vy` (5xy0) and `SNE Vx, Vy` (9xy0) add 2 to the advanced pc when the registers are equal, or
differ, and change nothing else. That these groups have the form with n = 0 alone is R90, the spec's decision D9. -/
def Obligations.RegisterSkipsCompareVxWithVy : Prop :=
  ∀ (s : State) (x y : Nibble),
    decodeWord (packXYN 0x5 x y 0x0) = some (.seReg x y) ∧
    decodeWord (packXYN 0x9 x y 0x0) = some (.sneReg x y) ∧
    (∃ t, exec (.seReg x y) s = .next t ∧
      t.pc = (if s.getV x = s.getV y then s.pc + 2 else s.pc) ∧ KeepsAllBut [.pc] s t) ∧
    ∃ t, exec (.sneReg x y) s = .next t ∧
      t.pc = (if s.getV x = s.getV y then s.pc else s.pc + 2) ∧ KeepsAllBut [.pc] s t

/-! ### Index register and memory (43_index_memory.md) -/

/-- R180: `LD I, nnn` (Annn) sets I to nnn, zero-extended, and changes nothing else. -/
def Obligations.LoadIndexSetsOnlyI : Prop :=
  ∀ (s : State) (nnn : Addr12),
    decodeWord (packNNN 0xA nnn) = some (.ldI nnn) ∧
    ∃ t, exec (.ldI nnn) s = .next t ∧ t.i.toNat = nnn.toNat ∧ KeepsAllBut [.index] s t

/-- R181: `ADD I, Vx` (Fx1E) adds Vx to I modulo 65536. That VF is not written is the spec's decision D16 (R181 "VF is
not written, even when the sum passes 0xFFF or 0xFFFF"). -/
def Obligations.AddIndexWrapsAtSixteenBits : Prop :=
  ∀ (s : State) (x : Nibble),
    decodeWord (packXKK 0xF x 0x1E) = some (.addI x) ∧
    ∃ t, exec (.addI x) s = .next t ∧ t.i.toNat = (s.i.toNat + (s.getV x).toNat) % 65536 ∧
      KeepsAllBut [.index] s t

/-- R182: `LD F, Vx` (Fx29) sets I to the address of a digit's glyph, five bytes to a glyph. That only the low nibble
counts is the spec's decision D17 (R182 "only the low nibble of `V[x]` selects the glyph"). -/
def Obligations.FontAddressIsFiveTimesTheLowNibble : Prop :=
  ∀ (s : State) (x : Nibble),
    decodeWord (packXKK 0xF x 0x29) = some (.ldF x) ∧
    ∃ t, exec (.ldF x) s = .next t ∧ t.i.toNat = 5 * ((s.getV x).toNat % 16) ∧ KeepsAllBut [.index] s t

/-- R183: `LD B, Vx` (Fx33) stores hundreds, tens and ones at I, I + 1, I + 2, each translated, leaves every other byte,
and changes nothing but memory. The translation is R62, the spec's decision D3. -/
def Obligations.BcdStoresThreeDigitsAndNoOtherByte : Prop :=
  ∀ (s : State) (x : Nibble),
    decodeWord (packXKK 0xF x 0x33) = some (.ldB x) ∧
    ∃ t, exec (.ldB x) s = .next t ∧
      (t.byteAt (xlate (s.dataAddr 0))).toNat = (s.getV x).toNat / 100 ∧
      (t.byteAt (xlate (s.dataAddr 1))).toNat = (s.getV x).toNat / 10 % 10 ∧
      (t.byteAt (xlate (s.dataAddr 2))).toNat = (s.getV x).toNat % 10 ∧
      (∀ a : Nat, a ≠ xlate (s.dataAddr 0) → a ≠ xlate (s.dataAddr 1) → a ≠ xlate (s.dataAddr 2) →
        t.byteAt a = s.byteAt a) ∧
      KeepsAllBut [.memory] s t

/-- R184: `LD [I], Vx` (Fx55) stores V0 to Vx at consecutive translated addresses from I, leaves every other byte, and
changes nothing but memory. That I stays is the spec's decision D14 (R184 "`I` is unchanged"). -/
def Obligations.BlockStoreWritesV0ToVxAndNoOtherByte : Prop :=
  ∀ (s : State) (x : Nibble),
    decodeWord (packXKK 0xF x 0x55) = some (.storeRegs x) ∧
    ∃ t, exec (.storeRegs x) s = .next t ∧
      (∀ k : Nibble, k.toNat ≤ x.toNat → t.byteAt (xlate (s.dataAddr k.toNat)) = s.getV k) ∧
      (∀ a : Nat, (∀ k : Nat, k ≤ x.toNat → a ≠ xlate (s.dataAddr k)) →
        t.byteAt a = s.byteAt a) ∧
      KeepsAllBut [.memory] s t

/-- R185: `LD Vx, [I]` (Fx65) loads V0 to Vx from consecutive translated addresses from I, keeps the registers above Vx,
and changes nothing but registers. That I stays is the spec's decision D14 (R185 "`I` is unchanged"). -/
def Obligations.BlockLoadReadsV0ToVx : Prop :=
  ∀ (s : State) (x : Nibble),
    decodeWord (packXKK 0xF x 0x65) = some (.loadRegs x) ∧
    ∃ t, exec (.loadRegs x) s = .next t ∧
      (∀ r : Nibble, t.getV r =
        if r.toNat ≤ x.toNat then s.byteAt (xlate (s.dataAddr r.toNat)) else s.getV r) ∧
      KeepsAllBut [.regs] s t

/-- R73, R281: after a block store over the two bytes pc points at, the word fetched next is the one stored. The spec's
decision D33 (R73 "Instruction fetch is coherent with data writes"). -/
def Obligations.FetchSeesTheBlockStoreBeforeIt : Prop :=
  ∀ (s t : State) (x : Nibble), 1 ≤ x.toNat → s.i = s.pc → s.pc.toNat ≤ 4094 →
    exec (.storeRegs x) s = .next t → t.fetch16 = wordOfBytes (s.getV 0) (s.getV 1)

/-! ### Display (44_display.md) -/

/-- R201: `CLS` (00E0) turns every pixel off and changes nothing else, VF included. -/
def Obligations.ClearScreenClearsEveryPixel : Prop :=
  decodeWord 0x00E0 = some .cls ∧
  ∀ s : State, ∃ t, exec .cls s = .next t ∧ (∀ c r : Nat, t.pixel c r = false) ∧ KeepsAllBut [.display] s t

/-- R202, R203, R204: `DRW Vx, Vy, n` (Dxyn) XORs the sprite's bits onto the screen, wrapped at the edges, from the
coordinates as they were; VF is 1 exactly when a lit pixel was turned off, else 0. The read order (D20, C11), the bit
order (D20) and the translation of the row addresses (D3) are the spec's decisions. -/
def Obligations.DrawXorsSpriteAndFlagsCollision : Prop :=
  ∀ (s : State) (x y n : Nibble),
    decodeWord (packXYN 0xD x y n) = some (.drw x y n) ∧
    ∃ t, exec (.drw x y n) s = .next t ∧
      (∀ c r : Nat, c < 64 → r < 32 → t.pixel c r =
        xor (s.pixel c r) (spriteCovers s (s.getV x).toNat (s.getV y).toNat n.toNat c r)) ∧
      ((t.getV 0xF = 1 ∧ ∃ c r : Nat, c < 64 ∧ r < 32 ∧ s.pixel c r = true ∧
          spriteCovers s (s.getV x).toNat (s.getV y).toNat n.toNat c r = true) ∨
        (t.getV 0xF = 0 ∧ ∀ c r : Nat, c < 64 → r < 32 → s.pixel c r = true →
          spriteCovers s (s.getV x).toNat (s.getV y).toNat n.toNat c r = false)) ∧
      (∀ q : Nibble, q ≠ 0xF → t.getV q = s.getV q) ∧
      KeepsAllBut [.regs, .display] s t

/-- The worked example W4 of 95_test_vectors.md, for every sprite: drawing twice at the same place gives the frame buffer
back, and from a clear screen the second draw alone reports a collision, if the sprite has a set bit. -/
def Obligations.DrawingTwiceRestoresTheScreen : Prop :=
  ∀ (s t u : State) (x y n : Nibble), x ≠ 0xF → y ≠ 0xF →
    exec (.drw x y n) s = .next t → exec (.drw x y n) t = .next u →
    (∀ c r : Nat, u.pixel c r = s.pixel c r) ∧
    ((∀ c r : Nat, s.pixel c r = false) →
      t.getV 0xF = 0 ∧
      (u.getV 0xF = 1 ↔ ∃ c r : Nat, c < 64 ∧ r < 32 ∧
        spriteCovers s (s.getV x).toNat (s.getV y).toNat n.toNat c r = true))

/-! ### Keypad and timers (45_keypad_timers.md, 60_exceptions.md) -/

/-- R217, R218: `SKP Vx` (Ex9E) and `SKNP Vx` (ExA1) add 2 to the advanced pc when the key named by Vx is, or is not,
pressed, and change nothing else. That the low nibble names the key is R216, the spec's decision D19. -/
def Obligations.KeySkipsTestTheKeyNamedByVx : Prop :=
  ∀ (s : State) (x : Nibble),
    decodeWord (packXKK 0xE x 0x9E) = some (.skp x) ∧
    decodeWord (packXKK 0xE x 0xA1) = some (.sknp x) ∧
    (∃ t, exec (.skp x) s = .next t ∧
      t.pc = (if s.key[(s.getV x).toNat % 16]'(Nat.mod_lt _ (Nat.zero_lt_succ 15)) = true then s.pc + 2 else s.pc) ∧
      KeepsAllBut [.pc] s t) ∧
    ∃ t, exec (.sknp x) s = .next t ∧
      t.pc = (if s.key[(s.getV x).toNat % 16]'(Nat.mod_lt _ (Nat.zero_lt_succ 15)) = true then s.pc else s.pc + 2) ∧
      KeepsAllBut [.pc] s t

/-- 45_keypad_timers.md section 3 (R225, R226, R227): `LD Vx, DT` (Fx07) reads the delay timer, `LD DT, Vx` (Fx15) and `LD ST, Vx` (Fx18) set a timer;
each changes nothing else. -/
def Obligations.TimerLoadsMoveOneByte : Prop :=
  ∀ (s : State) (x : Nibble),
    decodeWord (packXKK 0xF x 0x07) = some (.ldVxDT x) ∧
    decodeWord (packXKK 0xF x 0x15) = some (.ldDTVx x) ∧
    decodeWord (packXKK 0xF x 0x18) = some (.ldSTVx x) ∧
    (∃ t, exec (.ldVxDT x) s = .next t ∧
      (∀ r : Nibble, t.getV r = if r = x then s.dt else s.getV r) ∧ KeepsAllBut [.regs] s t) ∧
    (∃ t, exec (.ldDTVx x) s = .next t ∧ t.dt = s.getV x ∧ KeepsAllBut [.delay] s t) ∧
    ∃ t, exec (.ldSTVx x) s = .next t ∧ t.st = s.getV x ∧ KeepsAllBut [.sound] s t

/-- R219: `LD Vx, K` (Fx0A) makes the machine wait for a key for Vx and changes nothing else, pc and Vx included. -/
def Obligations.KeyWaitChangesOnlyTheRunStatus : Prop :=
  ∀ (s : State) (x : Nibble),
    decodeWord (packXKK 0xF x 0x0A) = some (.ldVxK x) ∧
    ∃ t, exec (.ldVxK x) s = .next t ∧ t.pendingKey = some x ∧ t.running = false ∧
      t.runStatus = some .waitingForKey ∧ KeepsAllBut [.status] s t

/-- R260, R111, R258: after a key wait begins the machine stays exactly as it is under any number of STEP and TICK
commands, whatever the key vector holds. -/
def Obligations.KeyWaitSurvivesStepsAndTicks : Prop :=
  ∀ (s t : State) (x : Nibble) (k : Vector Bool 16) (cs : List Command),
    exec (.ldVxK x) { s with key := k } = .next t → (∀ c ∈ cs, c = .step ∨ c = .tick) →
    t.pendingKey = some x ∧ (runCommands false cs t).2 = t

/-- R224: SUBMIT_KEY writes the key to the waiting register and makes the machine Ready, and has no effect when no key is
pending. That it does nothing then is the spec's decision D25 (R224 "the command has no effect"). -/
def Obligations.SubmitKeyEndsAWaitAndNothingElse : Prop :=
  ∀ (s : State) (id : Nibble),
    (s.pendingKey = none → runCommand (.submitKey id) s = (.done, s)) ∧
    ∀ x : Nibble, s.pendingKey = some x →
      (∀ r : Nibble, (runCommand (.submitKey id) s).2.getV r =
        if r = x then BitVec.ofNat 8 id.toNat else s.getV r) ∧
      (runCommand (.submitKey id) s).2.pendingKey = none ∧ (runCommand (.submitKey id) s).2.running = true ∧
      KeepsAllBut [.regs, .status] s (runCommand (.submitKey id) s).2

/-- R215: SET_KEYS writes the whole key vector, in any run status, and nothing else. That it holds until the next
SET_KEYS is the spec's decision D35. -/
def Obligations.SetKeysWritesOnlyTheKeyVector : Prop :=
  ∀ (s : State) (k : Vector Bool 16),
    (∀ j : Fin 16, (runCommand (.setKeys k) s).2.key[j] = k[j]) ∧ KeepsAllBut [.keys] s (runCommand (.setKeys k) s).2

/-- R255: TICK counts both timers down by one, floored at zero, when the machine is running, does nothing otherwise,
touches no other state and returns nothing. -/
def Obligations.TickCountsBothTimersDownToZero : Prop :=
  ∀ s : State,
    (runCommand .tick s).2.dt.toNat = (if s.running = true then s.dt.toNat - 1 else s.dt.toNat) ∧
    (runCommand .tick s).2.st.toNat = (if s.running = true then s.st.toNat - 1 else s.st.toNat) ∧
    (runCommand .tick s).1 = .done ∧ KeepsAllBut [.delay, .sound] s (runCommand .tick s).2

/-! ### The step (40_fetch_decode_execute.md) -/

/-- R113, R114: a Ready machine whose pc allows a fetch runs the instruction that the two bytes at pc decode to, high
byte first, from the state with pc advanced by 2; STEP then returns Executed with the instruction's diagnostic
(R118, the spec's decisions D24 and D29). -/
def Obligations.StepRunsTheDecodedInstruction : Prop :=
  ∀ (s : State) (i : Instr),
    s.running = true → s.pendingKey = none → s.pc.toNat ≤ 4094 →
    decodeWord (s.byteAt s.pc.toNat ++ s.byteAt (s.pc.toNat + 1)) = some i →
    step s = exec i { s with pc := s.pc + 2 } ∧
    ∀ t, exec i { s with pc := s.pc + 2 } = .next t →
      stepCommand s = (.executed (diagnosticOf i { s with pc := s.pc + 2 }), t)

/-- R111: with the gate closed STEP returns Idle and changes nothing, whatever pc and memory hold. The outcome Idle is
the spec's decision D29. -/
def Obligations.ClosedGateStepIsIdle : Prop :=
  ∀ s : State, (s.running = false ∨ s.pendingKey.isSome = true) → step s = .next s ∧ stepCommand s = (.idle, s)

/-- R112, R241: a Ready machine with pc above 4094 raises ProgramCounterOutOfBounds, changes nothing, and raises it again
at the next STEP. The bound is the spec's decision D4 (conflict C5). -/
def Obligations.PcAbove4094RaisesOutOfBounds : Prop :=
  ∀ s : State, s.running = true → s.pendingKey = none → 4094 < s.pc.toNat →
    step s = .fault (.programCounterOutOfBounds s.pc) ∧
    stepCommand s = (.error (.programCounterOutOfBounds s.pc), s)

/-- R116, R243: a Ready machine that fetches an illegal word raises UnknownOpcode with the word and its address; pc has
advanced by 2 and nothing else has changed. The state left is the spec's decision D6. -/
def Obligations.IllegalWordRaisesUnknownOpcode : Prop :=
  ∀ s : State, s.running = true → s.pendingKey = none → s.pc.toNat ≤ 4094 →
    decodeWord (s.byteAt s.pc.toNat ++ s.byteAt (s.pc.toNat + 1)) = none →
    step s = .fault (.unknownOpcode (s.byteAt s.pc.toNat ++ s.byteAt (s.pc.toNat + 1)) s.pc) ∧
    stepCommand s = (.error (.unknownOpcode
      (s.byteAt s.pc.toNat ++ s.byteAt (s.pc.toNat + 1)) s.pc), { s with pc := s.pc + 2 })

/-- R118: the two views of STEP agree: Idle and Executed are a next state, an Error is a fault, and no step is refused.
The form of the outcome is the spec's decision D29; the fault is log entry 6. -/
def Obligations.StepOutcomeAgreesWithStepCommand : Prop :=
  ∀ s : State, step s =
    match (stepCommand s).1 with
    | .idle => .next (stepCommand s).2
    | .executed _ => .next (stepCommand s).2
    | .error e => .fault e

/-- R117: no legal instruction raises an error: in every state every instruction has a next state. -/
def Obligations.EveryInstructionCompletes : Prop :=
  ∀ (i : Instr) (s : State), ∃ t, exec i s = .next t

/-- R36: where every instruction leaves pc, from the advanced pc. The spec's decisions D15 (V0), D19 (the key's number),
D22 (a full stack) and D37 (the clamp) stand behind its rows. -/
def Obligations.PcAfterEveryInstruction : Prop :=
  ∀ (i : Instr) (s t : State), exec i s = .next t →
    t.pc =
      match i with
      | .jp nnn => nnn.setWidth 16
      | .call nnn => nnn.setWidth 16
      | .jpV0 nnn => nnn.setWidth 16 + (s.getV 0).setWidth 16
      | .ret => if h : s.sp < 16 then s.stack[s.sp] else 0
      | .seImm x kk => if s.getV x = kk then s.pc + 2 else s.pc
      | .sneImm x kk => if s.getV x ≠ kk then s.pc + 2 else s.pc
      | .seReg x y => if s.getV x = s.getV y then s.pc + 2 else s.pc
      | .sneReg x y => if s.getV x ≠ s.getV y then s.pc + 2 else s.pc
      | .skp x => if s.keyDown (keyOf (s.getV x)) = true then s.pc + 2 else s.pc
      | .sknp x => if s.keyDown (keyOf (s.getV x)) = false then s.pc + 2 else s.pc
      | _ => s.pc

/-- R283: a jump to its own address is a fixed point of STEP. That a program ends so is a convention the spec takes from
general knowledge (G12, decision D38). -/
def Obligations.SelfJumpIsAFixedPoint : Prop :=
  ∀ (s : State) (nnn : Addr12), s.running = true → s.pendingKey = none → nnn.toNat ≤ 4094 → s.pc.toNat = nnn.toNat →
    s.fetch16 = packNNN 0x1 nnn → step s = .next s

/-! ### Whole-machine rules -/

/-- 10_state.md R33 to R43, 20_memory.md R63: which instructions may change which element; the key vector and
the font parameter none. That the block store and load leave I is the spec's decision D14. -/
def Obligations.EachElementHasItsOwnWriters : Prop :=
  ∀ (i : Instr) (s t : State), exec i s = .next t →
    t.key = s.key ∧ t.font = s.font ∧
    ((∀ x, i ≠ .ldB x ∧ i ≠ .storeRegs x) → t.mem = s.mem) ∧
    (i ≠ .cls → (∀ x y n, i ≠ .drw x y n) → t.fb = s.fb) ∧
    (i ≠ .ret → (∀ a, i ≠ .call a) → t.sp = s.sp ∧ t.stack = s.stack) ∧
    ((∀ a, i ≠ .ldI a) → (∀ x, i ≠ .addI x ∧ i ≠ .ldF x) → t.i = s.i) ∧
    ((∀ x, i ≠ .ldDTVx x) → t.dt = s.dt) ∧
    ((∀ x, i ≠ .ldSTVx x) → t.st = s.st) ∧
    ((∀ x, i ≠ .ldVxK x) → t.running = s.running ∧ t.pendingKey = s.pendingKey)

/-- 10_state.md R31: VF changes only by the instructions R31 lists and by those whose destination is VF.
That OR, AND, XOR and ADD I, Vx do not is the spec's decisions D13 and D16. -/
def Obligations.OnlyListedInstructionsWriteVf : Prop :=
  ∀ (i : Instr) (s t : State), exec i s = .next t → t.getV 0xF ≠ s.getV 0xF →
    match i with
    | .addImm _ _ | .addReg _ _ | .subReg _ _ | .subnReg _ _ | .shr _ _ | .shl _ _ | .drw _ _ _ => True
    | .ldImm x _ | .ldReg x _ | .orReg x _ | .andReg x _ | .xorReg x _ | .rnd x _ | .ldVxDT x | .loadRegs x => x = 0xF
    | _ => False

/-- 10_state.md R39: no instruction reads ST: with another value in it, every instruction does the same to every other
element. The host sees it as the sound-active output, ST != 0 (60_exceptions.md R257, the spec's decision D34). -/
def Obligations.SoundTimerIsReadByNoInstruction : Prop :=
  ∀ (i : Instr) (s t : State) (b : Byte), exec i s = .next t →
    (∃ u, exec i { s with st := b } = .next u ∧ { u with st := t.st } = t) ∧
    (t.soundActive = true ↔ t.st.toNat ≠ 0)

/-- 10_state.md R37, R52: only CALL and RET reach the stack: with another stack, every other instruction does the same
and leaves that stack as it is. -/
def Obligations.OnlyCallAndRetReachTheStack : Prop :=
  ∀ (i : Instr) (s t : State) (sp : Nat) (stack : Vector Word 16), i ≠ .ret → (∀ a, i ≠ .call a) →
    exec i s = .next t → exec i { s with sp := sp, stack := stack } = .next { t with sp := sp, stack := stack }

/-- 10_state.md R42: SKP and SKNP alone read the key vector; LD Vx, K does not (conflict C9, decision D25). -/
def Obligations.OnlyKeySkipsReadTheKeys : Prop :=
  ∀ (i : Instr) (s t : State) (k : Vector Bool 16), (∀ x, i ≠ .skp x ∧ i ≠ .sknp x) →
    exec i s = .next t → exec i { s with key := k } = .next { t with key := k }

/-- 42_alu.md R170: RND alone draws a random byte: the model's draw counter (log entry 3) influences no other
instruction, and no other instruction moves it. -/
def Obligations.OnlyRandomUsesADraw : Prop :=
  ∀ (i : Instr) (s t : State) (n : Nat), (∀ x kk, i ≠ .rnd x kk) →
    exec i s = .next t → t.draws = s.draws ∧ exec i { s with draws := n } = .next { t with draws := n }

/-! ### Reset and load (70_reset_and_hazards.md) -/

/-- R46, R47, R48, R272, R273: for every value of the parameter FONT_GLYPHS, the state at construction, and what RESET
leaves from any state: every element at its reset value. The values of KEY, pendingKey and running are the spec's decision
D27, construction is D26. Memory is the machine's font, then zeros; digit d's glyph is the font's bytes from 5 * d on. That
the font is a parameter is D18; no byte of its default is claimed here (log entry 1). -/
def Obligations.ResetLeavesTheResetValues : Prop :=
  ∀ (font : Font) (t : State),
    (t = State.resetWith font ∨ ∃ s : State, s.font = font ∧ runCommand .reset s = (.done, t)) →
    (∀ r : Nibble, t.getV r = 0) ∧ t.i = 0 ∧ t.pc = 0x200 ∧ (∀ k : Fin 16, t.stack[k] = 0) ∧ t.sp = 16 ∧
    t.dt = 0 ∧ t.st = 0 ∧ (∀ c r : Nat, t.pixel c r = false) ∧ (∀ k : Nibble, t.keyDown k = false) ∧
    t.pendingKey = none ∧ t.running = false ∧
    t.font = font ∧
    (∀ d k : Nat, (h : d < 16 ∧ k < 5) → t.byteAt (5 * d + k) = font[5 * d + k]) ∧
    ∀ a : Nat, t.byteAt a = if h : a < 80 then font[a] else 0

/-- R244, R273, R274: LOAD of an image that fits resets the machine, reinstalls its font, copies the image to 0x200 on and
makes it Ready. LOAD of a longer image raises ProgramTooLarge with its length and changes nothing. That the size is checked
before the reset and that empty and odd images are accepted is the spec's decision D28, that no key is pending afterwards is
D27 (R272); log entry 12. -/
def Obligations.LoadResetsCopiesAndStartsOrRejects : Prop :=
  ∀ (s : State) (bytes : List Byte),
    (3584 < bytes.length → runCommand (.load bytes) s = (.loadError (.programTooLarge bytes.length), s)) ∧
    (bytes.length ≤ 3584 →
      (runCommand (.load bytes) s).1 = .loaded ∧
      (runCommand (.load bytes) s).2.running = true ∧
      (runCommand (.load bytes) s).2.pendingKey = none ∧
      (∀ k (h : k < bytes.length), (runCommand (.load bytes) s).2.byteAt (0x200 + k) = bytes[k]) ∧
      (∀ a (h : a < 80), (runCommand (.load bytes) s).2.byteAt a = s.font[a]) ∧
      (∀ a : Nat, (a < 0x200 ∨ 0x200 + bytes.length ≤ a) →
        (runCommand (.load bytes) s).2.byteAt a = (runCommand .reset s).2.byteAt a) ∧
      KeepsAllBut [.memory, .status] (runCommand .reset s).2 (runCommand (.load bytes) s).2)

/-- R119: the run status and the commands. The status Unloaded and its rows, SUBMIT_KEY's rows and an error's row are the
spec's decisions D7, D25, D27. -/
def Obligations.RunStatusFollowsTheStateMachine : Prop :=
  ∀ s : State, Inv s →
    s.runStatus ≠ none ∧
    (runCommand .reset s).2.runStatus = some .unloaded ∧
    (∀ bytes : List Byte, bytes.length ≤ 3584 → (runCommand (.load bytes) s).2.runStatus = some .ready) ∧
    (∀ bytes : List Byte, 3584 < bytes.length → (runCommand (.load bytes) s).2.runStatus = s.runStatus) ∧
    (∀ k : Vector Bool 16, (runCommand (.setKeys k) s).2.runStatus = s.runStatus) ∧
    (runCommand .tick s).2.runStatus = s.runStatus ∧
    (s.runStatus = some .unloaded →
      (runCommand .step s).2 = s ∧ (runCommand .tick s).2 = s ∧ ∀ id, (runCommand (.submitKey id) s).2 = s) ∧
    (s.runStatus = some .waitingForKey →
      runCommand .step s = (.stepped .idle, s) ∧
      ∀ id, (runCommand (.submitKey id) s).2.runStatus = some .ready) ∧
    (s.runStatus = some .ready →
      (∀ id, (runCommand (.submitKey id) s).2 = s) ∧
      (∀ x, s.pc.toNat ≤ 4094 → decodeWord s.fetch16 = some (.ldVxK x) →
        (runCommand .step s).2.runStatus = some .waitingForKey) ∧
      ((4094 < s.pc.toNat ∨ ∀ x, decodeWord s.fetch16 ≠ some (.ldVxK x)) →
        (runCommand .step s).2.runStatus = some .ready))

/-! ### Invariants -/

/-- 10_state.md R49: the invariant holds at reset. -/
def Obligations.ResetMeetsTheInvariant : Prop := Inv State.reset

/-- 10_state.md R35, R37, R44, R49, 20_memory.md R60: every step keeps the invariant: memory canonical and inside 4096
bytes, SP in 0..16, never running with a key pending, stacked addresses at most 4096, pc at most 0x10FE (so that it
never wraps). -/
def Obligations.EveryStepKeepsTheInvariant : Prop :=
  ∀ s t : State, Inv s → step s = .next t → Inv t

/-- The same for every list of the host's six commands, errors included, under either error policy; and no list of commands,
from any state, changes the parameter FONT_GLYPHS (R46, R273). -/
def Obligations.EveryCommandListKeepsTheInvariant : Prop :=
  ∀ (haltsOnError : Bool) (cs : List Command) (s : State),
    (Inv s → Inv (runCommands haltsOnError cs s).2) ∧ (runCommands haltsOnError cs s).2.font = s.font

/-- The canonical form is canonical: two memories of one machine that read the same everywhere are the same data (log
entry 2), whatever the machine's font. -/
def Obligations.CanonicalMemoriesThatReadAlikeAreEqual : Prop :=
  ∀ (font : Font) (m m' : Memory), Memory.wf font m → Memory.wf font m' →
    (∀ a, Memory.read font m a = Memory.read font m' a) → m = m'

/-! ### Encoding (30_encoding.md) -/

/-- R80, R83, R92: decoding the word of any instruction gives the instruction back, every operand at every value. -/
def Obligations.DecodeOfEncodeIsTheInstruction : Prop :=
  ∀ i : Instr, decodeWord (encode i) = some i

/-- R92, R93: a word that decodes is the word of its instruction: no bit of a legal word is ignored. -/
def Obligations.EncodeOfDecodeIsTheWord : Prop :=
  ∀ (w : Word) (i : Instr), decodeWord w = some i → encode i = w

/-- R91, R116, with the spec's decisions D8 and D9: a word decodes exactly when it matches a row of
opcode_table.json, masks and patterns as the table gives them. -/
def Obligations.DecoderAgreesWithTheOpcodeTable : Prop :=
  ∀ w : Word, (decodeWord w).isSome = true ↔ ∃ r ∈ opcodeRows, w &&& r.mask = r.pattern

/-- R91: the illegal words, group by group, as its table lists them (the spec's decisions D8 and D9). -/
def Obligations.IllegalWordsAreExactlyThoseListed : Prop :=
  ∀ w : Word, decodeWord w = none ↔
    (w.toNat / 4096 = 0x0 ∧ w ≠ 0x00E0 ∧ w ≠ 0x00EE) ∨
    (w.toNat / 4096 = 0x5 ∧ w.toNat % 16 ≠ 0) ∨
    (w.toNat / 4096 = 0x8 ∧ w.toNat % 16 ∈ [0x8, 0x9, 0xA, 0xB, 0xC, 0xD, 0xF]) ∨
    (w.toNat / 4096 = 0x9 ∧ w.toNat % 16 ≠ 0) ∨
    (w.toNat / 4096 = 0xE ∧ w.toNat % 256 ∉ [0x9E, 0xA1]) ∨
    (w.toNat / 4096 = 0xF ∧ w.toNat % 256 ∉ [0x07, 0x0A, 0x15, 0x18, 0x1E, 0x29, 0x33, 0x55, 0x65])

/-- R93: no word matches two rows of the opcode table. -/
def Obligations.OpcodeRowsNeverOverlap : Prop :=
  opcodeRows.Pairwise fun r q => ∀ w : Word, ¬(w &&& r.mask = r.pattern ∧ w &&& q.mask = q.pattern)

/-- 95_test_vectors.md section 2.1: every word of its table of single words, written out by hand, decodes as listed there.
That the words with an unused selector are illegal, and the group 0 words but 00E0 and 00EE, rests on the spec's decisions
D9 and D8 (log entry 12). -/
def Obligations.SampleWordsDecodeAsListed : Prop :=
  decodeWord 0x0000 = none ∧ decodeWord 0x00E0 = some .cls ∧ decodeWord 0x00EE = some .ret ∧
  decodeWord 0x00EF = none ∧ decodeWord 0x01E0 = none ∧ decodeWord 0x0123 = none ∧
  decodeWord 0x1000 = some (.jp 0x000) ∧ decodeWord 0x2FFF = some (.call 0xFFF) ∧
  decodeWord 0x5120 = some (.seReg 1 2) ∧ decodeWord 0x5121 = none ∧ decodeWord 0x8128 = none ∧
  decodeWord 0x812E = some (.shl 1 2) ∧ decodeWord 0x812F = none ∧ decodeWord 0x9120 = some (.sneReg 1 2) ∧
  decodeWord 0x912F = none ∧ decodeWord 0xB123 = some (.jpV0 0x123) ∧ decodeWord 0xD120 = some (.drw 1 2 0) ∧
  decodeWord 0xE19E = some (.skp 1) ∧ decodeWord 0xE19F = none ∧ decodeWord 0xE1A1 = some (.sknp 1) ∧
  decodeWord 0xF107 = some (.ldVxDT 1) ∧ decodeWord 0xF108 = none ∧ decodeWord 0xF129 = some (.ldF 1) ∧
  decodeWord 0xF130 = none ∧ decodeWord 0xF090 = none ∧ decodeWord 0xFFFF = none
end

