-- ==== Sys2Proof/Laws/Decode.lean ====
section
/-! SUPPORT. The bits and the fields of a packed word (30_encoding.md R81, R82), each proved once. -/

namespace Sys2Proof

theorem getLsbD_packNNN (g : Nibble) (nnn : Addr12) (j : Nat) :
    (packNNN g nnn).getLsbD j = if j < 12 then nnn.getLsbD j else g.getLsbD (j - 12) := BitVec.getLsbD_append

theorem getLsbD_packXKK (g x : Nibble) (kk : Byte) (j : Nat) :
    (packXKK g x kk).getLsbD j =
      if j < 8 then kk.getLsbD j else if j < 12 then x.getLsbD (j - 8) else g.getLsbD (j - 12) := by
  refine BitVec.getLsbD_append.trans ?_
  split
  · rfl
  · refine BitVec.getLsbD_append.trans ?_
    congr 1
    · simp; omega

theorem getLsbD_packXYN (g x y n : Nibble) (j : Nat) :
    (packXYN g x y n).getLsbD j =
      if j < 4 then n.getLsbD j else if j < 8 then y.getLsbD (j - 4)
      else if j < 12 then x.getLsbD (j - 8) else g.getLsbD (j - 12) := by
  refine BitVec.getLsbD_append.trans ?_
  split
  · rfl
  · refine BitVec.getLsbD_append.trans ?_
    congr 1
    · simp; omega
    · refine BitVec.getLsbD_append.trans ?_
      congr 1
      · simp; omega

/-! ### Fields of format NNN -/

theorem opGroup_packNNN (g : Nibble) (nnn : Addr12) : opGroup (packNNN g nnn) = g := by
  ext i h
  simp [opGroup, getLsbD_packNNN, h]

theorem fieldNNN_packNNN (g : Nibble) (nnn : Addr12) : fieldNNN (packNNN g nnn) = nnn := by
  ext i h
  simp [fieldNNN, getLsbD_packNNN, h]

/-! ### Fields of formats XKK and XS -/

theorem opGroup_packXKK (g x : Nibble) (kk : Byte) : opGroup (packXKK g x kk) = g := by
  ext i h
  simp [opGroup, getLsbD_packXKK, h, show ¬ 12 + i < 8 by omega]

theorem fieldX_packXKK (g x : Nibble) (kk : Byte) : fieldX (packXKK g x kk) = x := by
  ext i h
  simp [fieldX, getLsbD_packXKK, h, show 8 + i < 12 by omega]

theorem fieldKK_packXKK (g x : Nibble) (kk : Byte) : fieldKK (packXKK g x kk) = kk := by
  ext i h
  simp [fieldKK, getLsbD_packXKK, h]

/-! ### Fields of format XYN -/

theorem opGroup_packXYN (g x y n : Nibble) : opGroup (packXYN g x y n) = g := by
  ext i h
  simp [opGroup, getLsbD_packXYN, h, show ¬ 12 + i < 4 by omega, show ¬ 12 + i < 8 by omega]

theorem fieldX_packXYN (g x y n : Nibble) : fieldX (packXYN g x y n) = x := by
  ext i h
  simp [fieldX, getLsbD_packXYN, h, show ¬ 8 + i < 4 by omega, show 8 + i < 12 by omega]

theorem fieldY_packXYN (g x y n : Nibble) : fieldY (packXYN g x y n) = y := by
  ext i h
  simp [fieldY, getLsbD_packXYN, h, show 4 + i < 8 by omega]

theorem fieldN_packXYN (g x y n : Nibble) : fieldN (packXYN g x y n) = n := by
  ext i h
  simp [fieldN, getLsbD_packXYN, h]

/-! ### Masked words, as the opcode table's rows compare them (40_fetch_decode_execute.md R116) -/

theorem packNNN_and_group (g : Nibble) (nnn : Addr12) : packNNN g nnn &&& 0xF000 = packNNN g 0 := by
  apply BitVec.eq_of_getLsbD_eq
  intro j hj
  simp only [BitVec.getLsbD_and, getLsbD_packNNN]
  interval_cases j <;> simp

theorem packXKK_and_group (g x : Nibble) (kk : Byte) : packXKK g x kk &&& 0xF000 = packXKK g 0 0 := by
  apply BitVec.eq_of_getLsbD_eq
  intro j hj
  simp only [BitVec.getLsbD_and, getLsbD_packXKK]
  interval_cases j <;> simp

theorem packXKK_and_selector (g x : Nibble) (kk : Byte) : packXKK g x kk &&& 0xF0FF = packXKK g 0 kk := by
  apply BitVec.eq_of_getLsbD_eq
  intro j hj
  simp only [BitVec.getLsbD_and, getLsbD_packXKK]
  interval_cases j <;> simp

theorem packXYN_and_group (g x y n : Nibble) : packXYN g x y n &&& 0xF000 = packXYN g 0 0 0 := by
  apply BitVec.eq_of_getLsbD_eq
  intro j hj
  simp only [BitVec.getLsbD_and, getLsbD_packXYN]
  interval_cases j <;> simp

theorem packXYN_and_selector (g x y n : Nibble) : packXYN g x y n &&& 0xF00F = packXYN g 0 0 n := by
  apply BitVec.eq_of_getLsbD_eq
  intro j hj
  simp only [BitVec.getLsbD_and, getLsbD_packXYN]
  interval_cases j <;> simp

end Sys2Proof
end

