-- ==== Sys2Proof/Laws/State.lean ====
section
/-! SUPPORT. One lemma per field per state update, true by unfolding the update once (10_state.md). Later proofs rewrite
with these and never unfold a record update. -/

namespace Sys2Proof.Machine

open Sys2Proof

/-! ### `State.setV` -/

@[simp] theorem State.setV_font (s : State) (x : Nibble) (val : Byte) : (s.setV x val).font = s.font := rfl
@[simp] theorem State.setV_i (s : State) (x : Nibble) (val : Byte) : (s.setV x val).i = s.i := rfl
@[simp] theorem State.setV_pc (s : State) (x : Nibble) (val : Byte) : (s.setV x val).pc = s.pc := rfl
@[simp] theorem State.setV_stack (s : State) (x : Nibble) (val : Byte) : (s.setV x val).stack = s.stack := rfl
@[simp] theorem State.setV_sp (s : State) (x : Nibble) (val : Byte) : (s.setV x val).sp = s.sp := rfl
@[simp] theorem State.setV_dt (s : State) (x : Nibble) (val : Byte) : (s.setV x val).dt = s.dt := rfl
@[simp] theorem State.setV_st (s : State) (x : Nibble) (val : Byte) : (s.setV x val).st = s.st := rfl
@[simp] theorem State.setV_mem (s : State) (x : Nibble) (val : Byte) : (s.setV x val).mem = s.mem := rfl
@[simp] theorem State.setV_fb (s : State) (x : Nibble) (val : Byte) : (s.setV x val).fb = s.fb := rfl
@[simp] theorem State.setV_key (s : State) (x : Nibble) (val : Byte) : (s.setV x val).key = s.key := rfl
@[simp] theorem State.setV_pendingKey (s : State) (x : Nibble) (val : Byte) : (s.setV x val).pendingKey = s.pendingKey := rfl
@[simp] theorem State.setV_running (s : State) (x : Nibble) (val : Byte) : (s.setV x val).running = s.running := rfl
@[simp] theorem State.setV_draws (s : State) (x : Nibble) (val : Byte) : (s.setV x val).draws = s.draws := rfl
@[simp] theorem State.setV_byteAt (s : State) (x : Nibble) (val : Byte) (adr : Nat) : (s.setV x val).byteAt adr = s.byteAt adr := rfl

/-! ### `State.setFlag` -/

@[simp] theorem State.setFlag_font (s : State) (flag : Byte) : (s.setFlag flag).font = s.font := rfl
@[simp] theorem State.setFlag_i (s : State) (flag : Byte) : (s.setFlag flag).i = s.i := rfl
@[simp] theorem State.setFlag_pc (s : State) (flag : Byte) : (s.setFlag flag).pc = s.pc := rfl
@[simp] theorem State.setFlag_stack (s : State) (flag : Byte) : (s.setFlag flag).stack = s.stack := rfl
@[simp] theorem State.setFlag_sp (s : State) (flag : Byte) : (s.setFlag flag).sp = s.sp := rfl
@[simp] theorem State.setFlag_dt (s : State) (flag : Byte) : (s.setFlag flag).dt = s.dt := rfl
@[simp] theorem State.setFlag_st (s : State) (flag : Byte) : (s.setFlag flag).st = s.st := rfl
@[simp] theorem State.setFlag_mem (s : State) (flag : Byte) : (s.setFlag flag).mem = s.mem := rfl
@[simp] theorem State.setFlag_fb (s : State) (flag : Byte) : (s.setFlag flag).fb = s.fb := rfl
@[simp] theorem State.setFlag_key (s : State) (flag : Byte) : (s.setFlag flag).key = s.key := rfl
@[simp] theorem State.setFlag_pendingKey (s : State) (flag : Byte) : (s.setFlag flag).pendingKey = s.pendingKey := rfl
@[simp] theorem State.setFlag_running (s : State) (flag : Byte) : (s.setFlag flag).running = s.running := rfl
@[simp] theorem State.setFlag_draws (s : State) (flag : Byte) : (s.setFlag flag).draws = s.draws := rfl
@[simp] theorem State.setFlag_byteAt (s : State) (flag : Byte) (adr : Nat) : (s.setFlag flag).byteAt adr = s.byteAt adr := rfl

/-! ### `State.setResult` -/

@[simp] theorem State.setResult_font (s : State) (x : Nibble) (result flag : Byte) : (s.setResult x result flag).font = s.font := rfl
@[simp] theorem State.setResult_i (s : State) (x : Nibble) (result flag : Byte) : (s.setResult x result flag).i = s.i := rfl
@[simp] theorem State.setResult_pc (s : State) (x : Nibble) (result flag : Byte) : (s.setResult x result flag).pc = s.pc := rfl
@[simp] theorem State.setResult_stack (s : State) (x : Nibble) (result flag : Byte) : (s.setResult x result flag).stack = s.stack := rfl
@[simp] theorem State.setResult_sp (s : State) (x : Nibble) (result flag : Byte) : (s.setResult x result flag).sp = s.sp := rfl
@[simp] theorem State.setResult_dt (s : State) (x : Nibble) (result flag : Byte) : (s.setResult x result flag).dt = s.dt := rfl
@[simp] theorem State.setResult_st (s : State) (x : Nibble) (result flag : Byte) : (s.setResult x result flag).st = s.st := rfl
@[simp] theorem State.setResult_mem (s : State) (x : Nibble) (result flag : Byte) : (s.setResult x result flag).mem = s.mem := rfl
@[simp] theorem State.setResult_fb (s : State) (x : Nibble) (result flag : Byte) : (s.setResult x result flag).fb = s.fb := rfl
@[simp] theorem State.setResult_key (s : State) (x : Nibble) (result flag : Byte) : (s.setResult x result flag).key = s.key := rfl
@[simp] theorem State.setResult_pendingKey (s : State) (x : Nibble) (result flag : Byte) : (s.setResult x result flag).pendingKey = s.pendingKey := rfl
@[simp] theorem State.setResult_running (s : State) (x : Nibble) (result flag : Byte) : (s.setResult x result flag).running = s.running := rfl
@[simp] theorem State.setResult_draws (s : State) (x : Nibble) (result flag : Byte) : (s.setResult x result flag).draws = s.draws := rfl
@[simp] theorem State.setResult_byteAt (s : State) (x : Nibble) (result flag : Byte) (adr : Nat) : (s.setResult x result flag).byteAt adr = s.byteAt adr := rfl

/-! ### `State.setI` -/

@[simp] theorem State.setI_font (s : State) (a : Word) : (s.setI a).font = s.font := rfl
@[simp] theorem State.setI_v (s : State) (a : Word) : (s.setI a).v = s.v := rfl
@[simp] theorem State.setI_i (s : State) (a : Word) : (s.setI a).i = a := rfl
@[simp] theorem State.setI_pc (s : State) (a : Word) : (s.setI a).pc = s.pc := rfl
@[simp] theorem State.setI_stack (s : State) (a : Word) : (s.setI a).stack = s.stack := rfl
@[simp] theorem State.setI_sp (s : State) (a : Word) : (s.setI a).sp = s.sp := rfl
@[simp] theorem State.setI_dt (s : State) (a : Word) : (s.setI a).dt = s.dt := rfl
@[simp] theorem State.setI_st (s : State) (a : Word) : (s.setI a).st = s.st := rfl
@[simp] theorem State.setI_mem (s : State) (a : Word) : (s.setI a).mem = s.mem := rfl
@[simp] theorem State.setI_fb (s : State) (a : Word) : (s.setI a).fb = s.fb := rfl
@[simp] theorem State.setI_key (s : State) (a : Word) : (s.setI a).key = s.key := rfl
@[simp] theorem State.setI_pendingKey (s : State) (a : Word) : (s.setI a).pendingKey = s.pendingKey := rfl
@[simp] theorem State.setI_running (s : State) (a : Word) : (s.setI a).running = s.running := rfl
@[simp] theorem State.setI_draws (s : State) (a : Word) : (s.setI a).draws = s.draws := rfl
@[simp] theorem State.setI_byteAt (s : State) (a : Word) (adr : Nat) : (s.setI a).byteAt adr = s.byteAt adr := rfl

/-! ### `State.setPc` -/

@[simp] theorem State.setPc_font (s : State) (target : Word) : (s.setPc target).font = s.font := rfl
@[simp] theorem State.setPc_v (s : State) (target : Word) : (s.setPc target).v = s.v := rfl
@[simp] theorem State.setPc_i (s : State) (target : Word) : (s.setPc target).i = s.i := rfl
@[simp] theorem State.setPc_pc (s : State) (target : Word) : (s.setPc target).pc = target := rfl
@[simp] theorem State.setPc_stack (s : State) (target : Word) : (s.setPc target).stack = s.stack := rfl
@[simp] theorem State.setPc_sp (s : State) (target : Word) : (s.setPc target).sp = s.sp := rfl
@[simp] theorem State.setPc_dt (s : State) (target : Word) : (s.setPc target).dt = s.dt := rfl
@[simp] theorem State.setPc_st (s : State) (target : Word) : (s.setPc target).st = s.st := rfl
@[simp] theorem State.setPc_mem (s : State) (target : Word) : (s.setPc target).mem = s.mem := rfl
@[simp] theorem State.setPc_fb (s : State) (target : Word) : (s.setPc target).fb = s.fb := rfl
@[simp] theorem State.setPc_key (s : State) (target : Word) : (s.setPc target).key = s.key := rfl
@[simp] theorem State.setPc_pendingKey (s : State) (target : Word) : (s.setPc target).pendingKey = s.pendingKey := rfl
@[simp] theorem State.setPc_running (s : State) (target : Word) : (s.setPc target).running = s.running := rfl
@[simp] theorem State.setPc_draws (s : State) (target : Word) : (s.setPc target).draws = s.draws := rfl
@[simp] theorem State.setPc_byteAt (s : State) (target : Word) (adr : Nat) : (s.setPc target).byteAt adr = s.byteAt adr := rfl

/-! ### `State.advance` -/

@[simp] theorem State.advance_font (s : State) : (s.advance).font = s.font := rfl
@[simp] theorem State.advance_v (s : State) : (s.advance).v = s.v := rfl
@[simp] theorem State.advance_i (s : State) : (s.advance).i = s.i := rfl
@[simp] theorem State.advance_pc (s : State) : (s.advance).pc = s.pc + 2 := rfl
@[simp] theorem State.advance_stack (s : State) : (s.advance).stack = s.stack := rfl
@[simp] theorem State.advance_sp (s : State) : (s.advance).sp = s.sp := rfl
@[simp] theorem State.advance_dt (s : State) : (s.advance).dt = s.dt := rfl
@[simp] theorem State.advance_st (s : State) : (s.advance).st = s.st := rfl
@[simp] theorem State.advance_mem (s : State) : (s.advance).mem = s.mem := rfl
@[simp] theorem State.advance_fb (s : State) : (s.advance).fb = s.fb := rfl
@[simp] theorem State.advance_key (s : State) : (s.advance).key = s.key := rfl
@[simp] theorem State.advance_pendingKey (s : State) : (s.advance).pendingKey = s.pendingKey := rfl
@[simp] theorem State.advance_running (s : State) : (s.advance).running = s.running := rfl
@[simp] theorem State.advance_draws (s : State) : (s.advance).draws = s.draws := rfl
@[simp] theorem State.advance_byteAt (s : State) (adr : Nat) : (s.advance).byteAt adr = s.byteAt adr := rfl

/-! ### `State.setDT` -/

@[simp] theorem State.setDT_font (s : State) (a : Byte) : (s.setDT a).font = s.font := rfl
@[simp] theorem State.setDT_v (s : State) (a : Byte) : (s.setDT a).v = s.v := rfl
@[simp] theorem State.setDT_i (s : State) (a : Byte) : (s.setDT a).i = s.i := rfl
@[simp] theorem State.setDT_pc (s : State) (a : Byte) : (s.setDT a).pc = s.pc := rfl
@[simp] theorem State.setDT_stack (s : State) (a : Byte) : (s.setDT a).stack = s.stack := rfl
@[simp] theorem State.setDT_sp (s : State) (a : Byte) : (s.setDT a).sp = s.sp := rfl
@[simp] theorem State.setDT_dt (s : State) (a : Byte) : (s.setDT a).dt = a := rfl
@[simp] theorem State.setDT_st (s : State) (a : Byte) : (s.setDT a).st = s.st := rfl
@[simp] theorem State.setDT_mem (s : State) (a : Byte) : (s.setDT a).mem = s.mem := rfl
@[simp] theorem State.setDT_fb (s : State) (a : Byte) : (s.setDT a).fb = s.fb := rfl
@[simp] theorem State.setDT_key (s : State) (a : Byte) : (s.setDT a).key = s.key := rfl
@[simp] theorem State.setDT_pendingKey (s : State) (a : Byte) : (s.setDT a).pendingKey = s.pendingKey := rfl
@[simp] theorem State.setDT_running (s : State) (a : Byte) : (s.setDT a).running = s.running := rfl
@[simp] theorem State.setDT_draws (s : State) (a : Byte) : (s.setDT a).draws = s.draws := rfl
@[simp] theorem State.setDT_byteAt (s : State) (a : Byte) (adr : Nat) : (s.setDT a).byteAt adr = s.byteAt adr := rfl

/-! ### `State.setST` -/

@[simp] theorem State.setST_font (s : State) (a : Byte) : (s.setST a).font = s.font := rfl
@[simp] theorem State.setST_v (s : State) (a : Byte) : (s.setST a).v = s.v := rfl
@[simp] theorem State.setST_i (s : State) (a : Byte) : (s.setST a).i = s.i := rfl
@[simp] theorem State.setST_pc (s : State) (a : Byte) : (s.setST a).pc = s.pc := rfl
@[simp] theorem State.setST_stack (s : State) (a : Byte) : (s.setST a).stack = s.stack := rfl
@[simp] theorem State.setST_sp (s : State) (a : Byte) : (s.setST a).sp = s.sp := rfl
@[simp] theorem State.setST_dt (s : State) (a : Byte) : (s.setST a).dt = s.dt := rfl
@[simp] theorem State.setST_st (s : State) (a : Byte) : (s.setST a).st = a := rfl
@[simp] theorem State.setST_mem (s : State) (a : Byte) : (s.setST a).mem = s.mem := rfl
@[simp] theorem State.setST_fb (s : State) (a : Byte) : (s.setST a).fb = s.fb := rfl
@[simp] theorem State.setST_key (s : State) (a : Byte) : (s.setST a).key = s.key := rfl
@[simp] theorem State.setST_pendingKey (s : State) (a : Byte) : (s.setST a).pendingKey = s.pendingKey := rfl
@[simp] theorem State.setST_running (s : State) (a : Byte) : (s.setST a).running = s.running := rfl
@[simp] theorem State.setST_draws (s : State) (a : Byte) : (s.setST a).draws = s.draws := rfl
@[simp] theorem State.setST_byteAt (s : State) (a : Byte) (adr : Nat) : (s.setST a).byteAt adr = s.byteAt adr := rfl

/-! ### `State.setFb` -/

@[simp] theorem State.setFb_font (s : State) (fb : FrameBuffer) : (s.setFb fb).font = s.font := rfl
@[simp] theorem State.setFb_v (s : State) (fb : FrameBuffer) : (s.setFb fb).v = s.v := rfl
@[simp] theorem State.setFb_i (s : State) (fb : FrameBuffer) : (s.setFb fb).i = s.i := rfl
@[simp] theorem State.setFb_pc (s : State) (fb : FrameBuffer) : (s.setFb fb).pc = s.pc := rfl
@[simp] theorem State.setFb_stack (s : State) (fb : FrameBuffer) : (s.setFb fb).stack = s.stack := rfl
@[simp] theorem State.setFb_sp (s : State) (fb : FrameBuffer) : (s.setFb fb).sp = s.sp := rfl
@[simp] theorem State.setFb_dt (s : State) (fb : FrameBuffer) : (s.setFb fb).dt = s.dt := rfl
@[simp] theorem State.setFb_st (s : State) (fb : FrameBuffer) : (s.setFb fb).st = s.st := rfl
@[simp] theorem State.setFb_mem (s : State) (fb : FrameBuffer) : (s.setFb fb).mem = s.mem := rfl
@[simp] theorem State.setFb_fb (s : State) (fb : FrameBuffer) : (s.setFb fb).fb = fb := rfl
@[simp] theorem State.setFb_key (s : State) (fb : FrameBuffer) : (s.setFb fb).key = s.key := rfl
@[simp] theorem State.setFb_pendingKey (s : State) (fb : FrameBuffer) : (s.setFb fb).pendingKey = s.pendingKey := rfl
@[simp] theorem State.setFb_running (s : State) (fb : FrameBuffer) : (s.setFb fb).running = s.running := rfl
@[simp] theorem State.setFb_draws (s : State) (fb : FrameBuffer) : (s.setFb fb).draws = s.draws := rfl
@[simp] theorem State.setFb_byteAt (s : State) (fb : FrameBuffer) (adr : Nat) : (s.setFb fb).byteAt adr = s.byteAt adr := rfl

/-! ### `State.memWriteBytes` -/

@[simp] theorem State.memWriteBytes_font (s : State) (a : Nat) (bytes : List Byte) : (s.memWriteBytes a bytes).font = s.font := rfl
@[simp] theorem State.memWriteBytes_v (s : State) (a : Nat) (bytes : List Byte) : (s.memWriteBytes a bytes).v = s.v := rfl
@[simp] theorem State.memWriteBytes_i (s : State) (a : Nat) (bytes : List Byte) : (s.memWriteBytes a bytes).i = s.i := rfl
@[simp] theorem State.memWriteBytes_pc (s : State) (a : Nat) (bytes : List Byte) : (s.memWriteBytes a bytes).pc = s.pc := rfl
@[simp] theorem State.memWriteBytes_stack (s : State) (a : Nat) (bytes : List Byte) : (s.memWriteBytes a bytes).stack = s.stack := rfl
@[simp] theorem State.memWriteBytes_sp (s : State) (a : Nat) (bytes : List Byte) : (s.memWriteBytes a bytes).sp = s.sp := rfl
@[simp] theorem State.memWriteBytes_dt (s : State) (a : Nat) (bytes : List Byte) : (s.memWriteBytes a bytes).dt = s.dt := rfl
@[simp] theorem State.memWriteBytes_st (s : State) (a : Nat) (bytes : List Byte) : (s.memWriteBytes a bytes).st = s.st := rfl
@[simp] theorem State.memWriteBytes_mem (s : State) (a : Nat) (bytes : List Byte) : (s.memWriteBytes a bytes).mem = Memory.writeBytes s.font s.mem a bytes := rfl
@[simp] theorem State.memWriteBytes_fb (s : State) (a : Nat) (bytes : List Byte) : (s.memWriteBytes a bytes).fb = s.fb := rfl
@[simp] theorem State.memWriteBytes_key (s : State) (a : Nat) (bytes : List Byte) : (s.memWriteBytes a bytes).key = s.key := rfl
@[simp] theorem State.memWriteBytes_pendingKey (s : State) (a : Nat) (bytes : List Byte) : (s.memWriteBytes a bytes).pendingKey = s.pendingKey := rfl
@[simp] theorem State.memWriteBytes_running (s : State) (a : Nat) (bytes : List Byte) : (s.memWriteBytes a bytes).running = s.running := rfl
@[simp] theorem State.memWriteBytes_draws (s : State) (a : Nat) (bytes : List Byte) : (s.memWriteBytes a bytes).draws = s.draws := rfl

/-! ### `State.awaitKey` -/

@[simp] theorem State.awaitKey_font (s : State) (x : Nibble) : (s.awaitKey x).font = s.font := rfl
@[simp] theorem State.awaitKey_v (s : State) (x : Nibble) : (s.awaitKey x).v = s.v := rfl
@[simp] theorem State.awaitKey_i (s : State) (x : Nibble) : (s.awaitKey x).i = s.i := rfl
@[simp] theorem State.awaitKey_pc (s : State) (x : Nibble) : (s.awaitKey x).pc = s.pc := rfl
@[simp] theorem State.awaitKey_stack (s : State) (x : Nibble) : (s.awaitKey x).stack = s.stack := rfl
@[simp] theorem State.awaitKey_sp (s : State) (x : Nibble) : (s.awaitKey x).sp = s.sp := rfl
@[simp] theorem State.awaitKey_dt (s : State) (x : Nibble) : (s.awaitKey x).dt = s.dt := rfl
@[simp] theorem State.awaitKey_st (s : State) (x : Nibble) : (s.awaitKey x).st = s.st := rfl
@[simp] theorem State.awaitKey_mem (s : State) (x : Nibble) : (s.awaitKey x).mem = s.mem := rfl
@[simp] theorem State.awaitKey_fb (s : State) (x : Nibble) : (s.awaitKey x).fb = s.fb := rfl
@[simp] theorem State.awaitKey_key (s : State) (x : Nibble) : (s.awaitKey x).key = s.key := rfl
@[simp] theorem State.awaitKey_pendingKey (s : State) (x : Nibble) : (s.awaitKey x).pendingKey = some x := rfl
@[simp] theorem State.awaitKey_running (s : State) (x : Nibble) : (s.awaitKey x).running = false := rfl
@[simp] theorem State.awaitKey_draws (s : State) (x : Nibble) : (s.awaitKey x).draws = s.draws := rfl
@[simp] theorem State.awaitKey_byteAt (s : State) (x : Nibble) (adr : Nat) : (s.awaitKey x).byteAt adr = s.byteAt adr := rfl

/-! ### `State.countDraw` -/

@[simp] theorem State.countDraw_font (s : State) : (s.countDraw).font = s.font := rfl
@[simp] theorem State.countDraw_v (s : State) : (s.countDraw).v = s.v := rfl
@[simp] theorem State.countDraw_i (s : State) : (s.countDraw).i = s.i := rfl
@[simp] theorem State.countDraw_pc (s : State) : (s.countDraw).pc = s.pc := rfl
@[simp] theorem State.countDraw_stack (s : State) : (s.countDraw).stack = s.stack := rfl
@[simp] theorem State.countDraw_sp (s : State) : (s.countDraw).sp = s.sp := rfl
@[simp] theorem State.countDraw_dt (s : State) : (s.countDraw).dt = s.dt := rfl
@[simp] theorem State.countDraw_st (s : State) : (s.countDraw).st = s.st := rfl
@[simp] theorem State.countDraw_mem (s : State) : (s.countDraw).mem = s.mem := rfl
@[simp] theorem State.countDraw_fb (s : State) : (s.countDraw).fb = s.fb := rfl
@[simp] theorem State.countDraw_key (s : State) : (s.countDraw).key = s.key := rfl
@[simp] theorem State.countDraw_pendingKey (s : State) : (s.countDraw).pendingKey = s.pendingKey := rfl
@[simp] theorem State.countDraw_running (s : State) : (s.countDraw).running = s.running := rfl
@[simp] theorem State.countDraw_draws (s : State) : (s.countDraw).draws = s.draws + 1 := rfl
@[simp] theorem State.countDraw_byteAt (s : State) (adr : Nat) : (s.countDraw).byteAt adr = s.byteAt adr := rfl

/-- A byte depends on the font and the memory alone. -/
theorem State.byteAt_congr {s t : State} (hf : t.font = s.font) (hm : t.mem = s.mem) (adr : Nat) :
    t.byteAt adr = s.byteAt adr := by
  unfold State.byteAt
  rw [hf, hm]

end Sys2Proof.Machine
end

