-- ==== Sys2Proof/Laws/Display.lean ====
section
/-! SUPPORT. What the frame-buffer operations do to a pixel (44_display.md R200 to R202). -/

namespace Sys2Proof.Machine

open Sys2Proof

/-- Toggling flips the pixel at that column and row, edges wrapped, and no other. -/
theorem FrameBuffer.pixel_toggle (fb : FrameBuffer) (c r c' r' : Nat) :
    (fb.toggle c r).pixel c' r' =
      if c' % 64 = c % 64 ∧ r' % 32 = r % 32 then !fb.pixel c r else fb.pixel c' r' := by
  unfold FrameBuffer.toggle
  by_cases hc : c % 64 = c' % 64
  · by_cases hr : r % 32 = r' % 32
    · simp [FrameBuffer.pixel, hc, hr]
    · simp [FrameBuffer.pixel, hc, hr, Ne.symm hr]
  · simp [FrameBuffer.pixel, hc, Ne.symm hc]

/-- A cleared frame buffer has no lit pixel (R201). -/
theorem FrameBuffer.pixel_clear (c r : Nat) : FrameBuffer.clear.pixel c r = false := by
  simp [FrameBuffer.clear, FrameBuffer.pixel]

/-- Plotting a bit XORs it onto its pixel. -/
theorem Drawing.pixel_plot (d : Drawing) (c r : Nat) (bit : Bool) (c' r' : Nat) :
    (d.plot c r bit).fb.pixel c' r' =
      xor (d.fb.pixel c' r') (bit && decide (c' % 64 = c % 64 ∧ r' % 32 = r % 32)) := by
  cases bit
  · simp [Drawing.plot]
  · simp only [Drawing.plot, if_true, FrameBuffer.pixel_toggle]
    split
    next h =>
      have : d.fb.pixel c r = d.fb.pixel c' r' := by simp [FrameBuffer.pixel, h.1, h.2]
      simp [this, h]
    next h => simp [h]

/-- Plotting a bit records a collision when it turns a lit pixel off. -/
theorem Drawing.collision_plot (d : Drawing) (c r : Nat) (bit : Bool) :
    (d.plot c r bit).collision = (d.collision || (bit && d.fb.pixel c r)) := by
  cases bit <;> simp [Drawing.plot]

/-- The first `count` bits of a row XOR onto the pixels of its line that lie less than `count` columns right of `cx`, counted
around the edge (R202). -/
theorem Drawing.pixel_row (d : Drawing) (cx line : Nat) (byte : Byte) (count : Nat) (hc : count ≤ 8) (c r : Nat) :
    (d.row cx line byte count).fb.pixel c r =
      xor (d.fb.pixel c r)
        (decide ((c + (64 - cx % 64)) % 64 < count ∧ r % 32 = line % 32) &&
          byte.getLsbD (7 - (c + (64 - cx % 64)) % 64)) := by
  induction count with
  | zero => simp [Drawing.row]
  | succ b ih =>
    rw [Drawing.row, Drawing.pixel_plot, ih (by omega)]
    have key : (c % 64 = (cx + b) % 64) ↔ (c + (64 - cx % 64)) % 64 = b := by omega
    by_cases hr : r % 32 = line % 32
    · by_cases hb : (c + (64 - cx % 64)) % 64 = b
      · simp [hr, hb, key.mpr hb, spriteBit]
      · have hne : ¬ (c % 64 = (cx + b) % 64) := fun h => hb (key.mp h)
        have hlt : ((c + (64 - cx % 64)) % 64 < b + 1) ↔ ((c + (64 - cx % 64)) % 64 < b) := by omega
        simp [hr, hne, hlt]
    · simp [hr]

/-- A row records a collision when one of its set bits meets a lit pixel (R202); its bits meet distinct pixels. -/
theorem Drawing.collision_row (d : Drawing) (cx line : Nat) (byte : Byte) (count : Nat) (hc : count ≤ 8) :
    (d.row cx line byte count).collision = true ↔
      d.collision = true ∨
        ∃ b, b < count ∧ byte.getLsbD (7 - b) = true ∧ d.fb.pixel (cx + b) line = true := by
  induction count with
  | zero => simp [Drawing.row]
  | succ b ih =>
    have self : (cx + b + (64 - cx % 64)) % 64 = b := by omega
    rw [Drawing.row, Drawing.collision_plot, Bool.or_eq_true, ih (by omega), Bool.and_eq_true,
      Drawing.pixel_row _ _ _ _ _ (by omega)]
    simp only [self, lt_irrefl, false_and, decide_false, Bool.false_and, Bool.xor_false, spriteBit]
    constructor
    · rintro ((h | ⟨k, hk, h⟩) | h)
      · exact .inl h
      · exact .inr ⟨k, by omega, h⟩
      · exact .inr ⟨b, by omega, h⟩
    · rintro (h | ⟨k, hk, h⟩)
      · exact .inl (.inl h)
      · by_cases e : k = b
        · subst e
          exact .inr h
        · exact .inl (.inr ⟨k, by omega, h⟩)

end Sys2Proof.Machine
end

