-- ==== Sys2Proof/Laws/Memory.lean ====
section
/-! SUPPORT. What the memory operations do to a byte read, and that each keeps the canonical form (20_memory.md R60, R67,
R71). The read laws hold for every list of cells, canonical or not. -/

namespace Sys2Proof.Machine

open Sys2Proof

/-- No cell of an address: it reads as the reset contents. -/
theorem Memory.read_of_absent (font : Font) (m : Memory) (a : Nat) (h : ∀ c ∈ m, c.1 ≠ a) :
    Memory.read font m a = Memory.unlisted font a := by
  induction m with
  | nil => rfl
  | cons d rest ih =>
    have hd : a ≠ d.1 := fun e => h d (by simp) e.symm
    simp only [Memory.read, if_neg hd]
    exact ih fun c hc => h c (by simp [hc])

theorem Memory.read_forget (font : Font) (m : Memory) (a b : Nat) :
    Memory.read font (Memory.forget m a) b = if b = a then Memory.unlisted font a else Memory.read font m b := by
  split
  next h =>
    subst h
    exact Memory.read_of_absent _ _ _ fun c hc => by
      simp only [Memory.forget, List.mem_filter, decide_eq_true_eq] at hc
      exact hc.2
  next h =>
    induction m with
    | nil => rfl
    | cons d rest ih =>
      unfold Memory.forget at ih ⊢
      by_cases hd : d.1 = a
      · have hb : b ≠ d.1 := fun e => h (e.trans hd)
        simp only [List.filter_cons, hd, ne_eq, not_true_eq_false, decide_false, Bool.false_eq_true, if_false,
          Memory.read, ih]
        simp [h]
      · simp only [List.filter_cons, ne_eq, hd, not_false_eq_true, decide_true, if_true, Memory.read, ih]

theorem Memory.read_insert (font : Font) (c : Host.Cell) (m : Memory) (h : ∀ d ∈ m, d.1 ≠ c.1) (b : Nat) :
    Memory.read font (Memory.insert c m) b = if b = c.1 then c.2 else Memory.read font m b := by
  induction m with
  | nil => simp [Memory.insert, Memory.read]
  | cons d rest ih =>
    rw [Memory.insert]
    split
    · simp [Memory.read]
    · have hd : d.1 ≠ c.1 := h d (by simp)
      simp only [Memory.read, ih fun e he => h e (by simp [he])]
      by_cases hb : b = d.1
      · simp [hb, hd]
      · simp [hb]

theorem Memory.mem_forget {m : Memory} {a : Nat} {c : Host.Cell} : c ∈ Memory.forget m a ↔ c ∈ m ∧ c.1 ≠ a := by
  simp [Memory.forget]

/-- One byte is written and no other changes (R67). -/
theorem Memory.read_write (font : Font) (m : Memory) (a b : Nat) (v : Byte) :
    Memory.read font (Memory.write font m a v) b = if b = a then v else Memory.read font m b := by
  unfold Memory.write
  split
  next h => rw [Memory.read_forget, h]
  next h =>
    rw [Memory.read_insert _ _ _ (fun d hd => (Memory.mem_forget.mp hd).2), Memory.read_forget]
    by_cases hb : b = a <;> simp [hb]

theorem Memory.mem_insert {c d : Host.Cell} {m : Memory} : d ∈ Memory.insert c m ↔ d = c ∨ d ∈ m := by
  induction m with
  | nil => simp [Memory.insert]
  | cons e rest ih =>
    rw [Memory.insert]
    split
    · simp
    · simp only [List.mem_cons, ih]
      tauto

theorem Memory.insert_sorted (c : Host.Cell) (m : Memory) (hm : m.Pairwise fun d e => d.1 < e.1)
    (hc : ∀ d ∈ m, d.1 ≠ c.1) : (Memory.insert c m).Pairwise fun d e => d.1 < e.1 := by
  induction m with
  | nil => simp [Memory.insert]
  | cons e rest ih =>
    rw [List.pairwise_cons] at hm
    rw [Memory.insert]
    split
    next h =>
      refine List.pairwise_cons.mpr ⟨fun d hd => ?_, List.pairwise_cons.mpr hm⟩
      rcases List.mem_cons.mp hd with rfl | hd
      · exact h
      · exact lt_trans h (hm.1 d hd)
    next h =>
      have he : e.1 ≠ c.1 := hc e (by simp)
      refine List.pairwise_cons.mpr ⟨fun d hd => ?_, ih hm.2 fun d hd => hc d (by simp [hd])⟩
      rcases Memory.mem_insert.mp hd with rfl | hd
      · omega
      · exact hm.1 d hd

theorem Memory.forget_wf {font : Font} {m : Memory} (h : Memory.wf font m) (a : Nat) : Memory.wf font (Memory.forget m a) :=
  ⟨h.1.filter _, fun c hc => h.2 c (Memory.mem_forget.mp hc).1⟩

/-- A write inside memory keeps the canonical form. -/
theorem Memory.write_wf {font : Font} {m : Memory} (h : Memory.wf font m) {a : Nat} (ha : a < Config.memSize) (v : Byte) :
    Memory.wf font (Memory.write font m a v) := by
  unfold Memory.write
  split
  · exact Memory.forget_wf h a
  next hv =>
    refine ⟨Memory.insert_sorted _ _ (Memory.forget_wf h a).1 fun d hd => (Memory.mem_forget.mp hd).2, fun c hc => ?_⟩
    rcases Memory.mem_insert.mp hc with rfl | hc
    · exact ⟨ha, hv⟩
    · exact (Memory.forget_wf h a).2 c hc

/-- The translator answers an address inside memory (R62). -/
theorem xlate_lt (a : Nat) : xlate a < Config.memSize := Nat.mod_lt a (by decide)

/-- Writing consecutive bytes keeps the canonical form. -/
theorem Memory.writeBytes_wf {font : Font} {m : Memory} (h : Memory.wf font m) (a : Nat) (bytes : List Byte) :
    Memory.wf font (Memory.writeBytes font m a bytes) := by
  induction bytes generalizing m a with
  | nil => exact h
  | cons b rest ih => exact ih (Memory.write_wf h (xlate_lt a) b) (a + 1)

/-- The memory of the reset state is canonical. -/
theorem Memory.reset_wf (font : Font) : Memory.wf font (State.resetWith font).mem := by simp [State.resetWith, Memory.wf]

/-- Writing consecutive bytes leaves every address outside them as it was. -/
theorem Memory.read_writeBytes_outside (font : Font) (m : Memory) (a : Nat) (bytes : List Byte) (b : Nat)
    (hb : ∀ k, k < bytes.length → b ≠ xlate (a + k)) :
    Memory.read font (Memory.writeBytes font m a bytes) b = Memory.read font m b := by
  induction bytes generalizing m a with
  | nil => rfl
  | cons v rest ih =>
    rw [Memory.writeBytes, ih _ _ fun k hk => by
      have := hb (k + 1) (by simpa using hk)
      rwa [show a + 1 + k = a + (k + 1) by omega], Memory.read_write, if_neg]
    simpa using hb 0 (by simp)

/-- Writing at most a memory-full of consecutive bytes puts each at its translated address (R66: no two alias). -/
theorem Memory.read_writeBytes_inside (font : Font) (m : Memory) (a : Nat) (bytes : List Byte)
    (hl : bytes.length ≤ Config.memSize) (k : Nat) (hk : k < bytes.length) :
    Memory.read font (Memory.writeBytes font m a bytes) (xlate (a + k)) = bytes[k] := by
  induction bytes generalizing m a k with
  | nil => simp at hk
  | cons v rest ih =>
    simp only [List.length_cons] at hl hk
    rw [Memory.writeBytes]
    cases k with
    | zero =>
      rw [Memory.read_writeBytes_outside _ _ _ _ _ fun j hj => by unfold xlate Config.memSize at *; omega,
        Memory.read_write]
      simp
    | succ j =>
      have := ih (Memory.write font m (xlate a) v) (a + 1) (by omega) j (by omega)
      rw [show a + (j + 1) = a + 1 + j by omega, this]
      simp

/-- A store leaves every byte outside it as it was. -/
theorem State.byteAt_memWriteBytes_outside (s : State) (a : Nat) (bytes : List Byte) (b : Nat)
    (hb : ∀ k, k < bytes.length → b ≠ xlate (a + k)) : (s.memWriteBytes a bytes).byteAt b = s.byteAt b :=
  Memory.read_writeBytes_outside s.font s.mem a bytes b hb

/-- A store puts each of its bytes at its translated address. -/
theorem State.byteAt_memWriteBytes_inside (s : State) (a : Nat) (bytes : List Byte)
    (hl : bytes.length ≤ Config.memSize) (k : Nat) (hk : k < bytes.length) :
    (s.memWriteBytes a bytes).byteAt (xlate (a + k)) = bytes[k] :=
  Memory.read_writeBytes_inside s.font s.mem a bytes hl k hk

/-- Every byte at reset: the font, then zeros (R46, R47). -/
theorem State.byteAt_resetWith (font : Font) (a : Nat) :
    (State.resetWith font).byteAt a = if h : a < 80 then font[a] else 0 := rfl

/-- A cell of a sorted list is what its address reads as. -/
theorem Memory.read_of_mem (font : Font) {m : Memory} (h : m.Pairwise fun d e => d.1 < e.1) {c : Host.Cell} (hc : c ∈ m) :
    Memory.read font m c.1 = c.2 := by
  induction m with
  | nil => simp at hc
  | cons d rest ih =>
    rw [List.pairwise_cons] at h
    rcases List.mem_cons.mp hc with rfl | hc'
    · simp [Memory.read]
    · have : c.1 ≠ d.1 := by have := h.1 c hc'; omega
      simp [Memory.read, this, ih h.2 hc']

end Sys2Proof.Machine
end

