-- ==== Sys2Proof/Laws/PerInstr.lean ====
section
/-! SUPPORT. Facts about every instruction as syntax, one lemma per constructor. -/

namespace Sys2Proof.Laws.LegalEncoding

open Sys2Proof

/-- The word of an instruction matches a row of opcode_table.json (30_encoding.md R91). -/
def Statement (i : Instr) : Prop := legalWord (encode i) = true

/-- A word that some row of the table matches is legal. -/
theorem legal_of_row {w : Word} (r : OpcodeRow) (hr : r ∈ opcodeRows) (hw : w &&& r.mask = r.pattern) :
    legalWord w = true :=
  List.any_eq_true.mpr ⟨r, hr, by simp [OpcodeRow.hits, hw]⟩

theorem cls : Statement .cls := by unfold Statement; decide

theorem ret : Statement .ret := by unfold Statement; decide

theorem jp (nnn : Addr12) : Statement (.jp nnn) :=
  legal_of_row ⟨0x1000, 0xF000⟩ (by decide) ((packNNN_and_group _ _).trans (by decide))

theorem call (nnn : Addr12) : Statement (.call nnn) :=
  legal_of_row ⟨0x2000, 0xF000⟩ (by decide) ((packNNN_and_group _ _).trans (by decide))

theorem seImm (x : Nibble) (kk : Byte) : Statement (.seImm x kk) :=
  legal_of_row ⟨0x3000, 0xF000⟩ (by decide) ((packXKK_and_group _ _ _).trans (by decide))

theorem sneImm (x : Nibble) (kk : Byte) : Statement (.sneImm x kk) :=
  legal_of_row ⟨0x4000, 0xF000⟩ (by decide) ((packXKK_and_group _ _ _).trans (by decide))

theorem seReg (x : Nibble) (y : Nibble) : Statement (.seReg x y) :=
  legal_of_row ⟨0x5000, 0xF00F⟩ (by decide) ((packXYN_and_selector _ _ _ _).trans (by decide))

theorem ldImm (x : Nibble) (kk : Byte) : Statement (.ldImm x kk) :=
  legal_of_row ⟨0x6000, 0xF000⟩ (by decide) ((packXKK_and_group _ _ _).trans (by decide))

theorem addImm (x : Nibble) (kk : Byte) : Statement (.addImm x kk) :=
  legal_of_row ⟨0x7000, 0xF000⟩ (by decide) ((packXKK_and_group _ _ _).trans (by decide))

theorem ldReg (x : Nibble) (y : Nibble) : Statement (.ldReg x y) :=
  legal_of_row ⟨0x8000, 0xF00F⟩ (by decide) ((packXYN_and_selector _ _ _ _).trans (by decide))

theorem orReg (x : Nibble) (y : Nibble) : Statement (.orReg x y) :=
  legal_of_row ⟨0x8001, 0xF00F⟩ (by decide) ((packXYN_and_selector _ _ _ _).trans (by decide))

theorem andReg (x : Nibble) (y : Nibble) : Statement (.andReg x y) :=
  legal_of_row ⟨0x8002, 0xF00F⟩ (by decide) ((packXYN_and_selector _ _ _ _).trans (by decide))

theorem xorReg (x : Nibble) (y : Nibble) : Statement (.xorReg x y) :=
  legal_of_row ⟨0x8003, 0xF00F⟩ (by decide) ((packXYN_and_selector _ _ _ _).trans (by decide))

theorem addReg (x : Nibble) (y : Nibble) : Statement (.addReg x y) :=
  legal_of_row ⟨0x8004, 0xF00F⟩ (by decide) ((packXYN_and_selector _ _ _ _).trans (by decide))

theorem subReg (x : Nibble) (y : Nibble) : Statement (.subReg x y) :=
  legal_of_row ⟨0x8005, 0xF00F⟩ (by decide) ((packXYN_and_selector _ _ _ _).trans (by decide))

theorem shr (x : Nibble) (y : Nibble) : Statement (.shr x y) :=
  legal_of_row ⟨0x8006, 0xF00F⟩ (by decide) ((packXYN_and_selector _ _ _ _).trans (by decide))

theorem subnReg (x : Nibble) (y : Nibble) : Statement (.subnReg x y) :=
  legal_of_row ⟨0x8007, 0xF00F⟩ (by decide) ((packXYN_and_selector _ _ _ _).trans (by decide))

theorem shl (x : Nibble) (y : Nibble) : Statement (.shl x y) :=
  legal_of_row ⟨0x800E, 0xF00F⟩ (by decide) ((packXYN_and_selector _ _ _ _).trans (by decide))

theorem sneReg (x : Nibble) (y : Nibble) : Statement (.sneReg x y) :=
  legal_of_row ⟨0x9000, 0xF00F⟩ (by decide) ((packXYN_and_selector _ _ _ _).trans (by decide))

theorem ldI (nnn : Addr12) : Statement (.ldI nnn) :=
  legal_of_row ⟨0xA000, 0xF000⟩ (by decide) ((packNNN_and_group _ _).trans (by decide))

theorem jpV0 (nnn : Addr12) : Statement (.jpV0 nnn) :=
  legal_of_row ⟨0xB000, 0xF000⟩ (by decide) ((packNNN_and_group _ _).trans (by decide))

theorem rnd (x : Nibble) (kk : Byte) : Statement (.rnd x kk) :=
  legal_of_row ⟨0xC000, 0xF000⟩ (by decide) ((packXKK_and_group _ _ _).trans (by decide))

theorem drw (x : Nibble) (y : Nibble) (n : Nibble) : Statement (.drw x y n) :=
  legal_of_row ⟨0xD000, 0xF000⟩ (by decide) ((packXYN_and_group _ _ _ _).trans (by decide))

theorem skp (x : Nibble) : Statement (.skp x) :=
  legal_of_row ⟨0xE09E, 0xF0FF⟩ (by decide) ((packXKK_and_selector _ _ _).trans (by decide))

theorem sknp (x : Nibble) : Statement (.sknp x) :=
  legal_of_row ⟨0xE0A1, 0xF0FF⟩ (by decide) ((packXKK_and_selector _ _ _).trans (by decide))

theorem ldVxDT (x : Nibble) : Statement (.ldVxDT x) :=
  legal_of_row ⟨0xF007, 0xF0FF⟩ (by decide) ((packXKK_and_selector _ _ _).trans (by decide))

theorem ldVxK (x : Nibble) : Statement (.ldVxK x) :=
  legal_of_row ⟨0xF00A, 0xF0FF⟩ (by decide) ((packXKK_and_selector _ _ _).trans (by decide))

theorem ldDTVx (x : Nibble) : Statement (.ldDTVx x) :=
  legal_of_row ⟨0xF015, 0xF0FF⟩ (by decide) ((packXKK_and_selector _ _ _).trans (by decide))

theorem ldSTVx (x : Nibble) : Statement (.ldSTVx x) :=
  legal_of_row ⟨0xF018, 0xF0FF⟩ (by decide) ((packXKK_and_selector _ _ _).trans (by decide))

theorem addI (x : Nibble) : Statement (.addI x) :=
  legal_of_row ⟨0xF01E, 0xF0FF⟩ (by decide) ((packXKK_and_selector _ _ _).trans (by decide))

theorem ldF (x : Nibble) : Statement (.ldF x) :=
  legal_of_row ⟨0xF029, 0xF0FF⟩ (by decide) ((packXKK_and_selector _ _ _).trans (by decide))

theorem ldB (x : Nibble) : Statement (.ldB x) :=
  legal_of_row ⟨0xF033, 0xF0FF⟩ (by decide) ((packXKK_and_selector _ _ _).trans (by decide))

theorem storeRegs (x : Nibble) : Statement (.storeRegs x) :=
  legal_of_row ⟨0xF055, 0xF0FF⟩ (by decide) ((packXKK_and_selector _ _ _).trans (by decide))

theorem loadRegs (x : Nibble) : Statement (.loadRegs x) :=
  legal_of_row ⟨0xF065, 0xF0FF⟩ (by decide) ((packXKK_and_selector _ _ _).trans (by decide))

end Sys2Proof.Laws.LegalEncoding
end

