-- ==== Sys2Proof/Laws/Registers.lean ====
section
/-! SUPPORT. What the register operations do to a register read and to the other accessors (10_state.md R30, R31). -/

namespace Sys2Proof.Machine

open Sys2Proof

/-- A read after a write: the value written at that register, the old value at every other. -/
theorem State.getV_setV (s : State) (x r : Nibble) (val : Byte) :
    (s.setV x val).getV r = if r = x then val else s.getV r := by
  have hx : x.toNat < 16 := x.isLt
  have hr : r.toNat < 16 := r.isLt
  unfold State.getV State.setV
  rw [Vector.getElem_set]
  by_cases h : x.toNat = r.toNat
  · have : r = x := (BitVec.eq_of_toNat_eq h).symm
    simp [this]
  · have : r ≠ x := fun e => h (by rw [e])
    simp [h, this]

/-- The flag is written last, so it wins (R121). -/
theorem State.getV_setResult (s : State) (x r : Nibble) (result flag : Byte) :
    (s.setResult x result flag).getV r = if r = 0xF then flag else if r = x then result else s.getV r := by
  simp [State.setResult, State.setFlag, State.getV_setV]

theorem State.getV_setFlag (s : State) (r : Nibble) (flag : Byte) :
    (s.setFlag flag).getV r = if r = 0xF then flag else s.getV r := State.getV_setV s 0xF r flag

/-- A register read sees only the register file. -/
theorem State.getV_congr {s t : State} (h : t.v = s.v) (r : Nibble) : t.getV r = s.getV r := by
  simp [State.getV, h]

@[simp] theorem State.getV_setI (s : State) (a : Word) (r : Nibble) : (s.setI a).getV r = s.getV r := rfl
@[simp] theorem State.getV_setPc (s : State) (a : Word) (r : Nibble) : (s.setPc a).getV r = s.getV r := rfl
@[simp] theorem State.getV_advance (s : State) (r : Nibble) : s.advance.getV r = s.getV r := rfl
@[simp] theorem State.getV_setDT (s : State) (a : Byte) (r : Nibble) : (s.setDT a).getV r = s.getV r := rfl
@[simp] theorem State.getV_setST (s : State) (a : Byte) (r : Nibble) : (s.setST a).getV r = s.getV r := rfl
@[simp] theorem State.getV_setFb (s : State) (fb : FrameBuffer) (r : Nibble) : (s.setFb fb).getV r = s.getV r := rfl
@[simp] theorem State.getV_awaitKey (s : State) (x r : Nibble) : (s.awaitKey x).getV r = s.getV r := rfl
@[simp] theorem State.getV_countDraw (s : State) (r : Nibble) : s.countDraw.getV r = s.getV r := rfl
@[simp] theorem State.getV_memWriteBytes (s : State) (a : Nat) (bytes : List Byte) (r : Nibble) :
    (s.memWriteBytes a bytes).getV r = s.getV r := rfl

/-- A skip changes pc alone: it adds 2 when its condition holds (41_control_transfer.md R136). -/
theorem State.skipIf_eq (s : State) (cond : Bool) :
    s.skipIf cond = s.setPc (if cond then s.pc + 2 else s.pc) := by
  cases cond <;> rfl

/-- A block load writes registers and nothing else. -/
theorem State.loadV_eq (s : State) (a count : Nat) : s.loadV a count = { s with v := (s.loadV a count).v } := by
  induction count with
  | zero => rfl
  | succ k ih =>
    rw [State.loadV, ih]
    rfl

@[simp] theorem State.loadV_font (s : State) (a count : Nat) : (s.loadV a count).font = s.font := by rw [State.loadV_eq]
@[simp] theorem State.loadV_byteAt (s : State) (a count adr : Nat) : (s.loadV a count).byteAt adr = s.byteAt adr := by
  rw [State.loadV_eq]; rfl
@[simp] theorem State.loadV_mem (s : State) (a count : Nat) : (s.loadV a count).mem = s.mem := by rw [State.loadV_eq]
@[simp] theorem State.loadV_i (s : State) (a count : Nat) : (s.loadV a count).i = s.i := by rw [State.loadV_eq]
@[simp] theorem State.loadV_pc (s : State) (a count : Nat) : (s.loadV a count).pc = s.pc := by rw [State.loadV_eq]

/-- A block load of `count` registers (43_index_memory.md R185): each of the first `count` registers gets its byte, the
others stay. -/
theorem State.getV_loadV (s : State) (a count : Nat) (hc : count ≤ 16) (r : Nibble) :
    (s.loadV a count).getV r = if r.toNat < count then s.memRead (a + r.toNat) else s.getV r := by
  induction count with
  | zero => simp [State.loadV]
  | succ k ih =>
    have hk : (BitVec.ofNat 4 k).toNat = k := by simp; omega
    rw [State.loadV, State.getV_setV, ih (by omega)]
    by_cases h : r = BitVec.ofNat 4 k
    · simp [h, show k % 16 = k by omega]
    · have hne : r.toNat ≠ k := fun e => h (BitVec.eq_of_toNat_eq (by rw [hk]; exact e))
      by_cases hlt : r.toNat < k
      · simp [h, hlt, show r.toNat < k + 1 by omega]
      · simp [h, hlt, show ¬ r.toNat < k + 1 by omega]

/-- The first registers in order: as many as asked for, and each the register of its place (R184). -/
theorem State.length_firstV (s : State) (count : Nat) (h : count ≤ 16) : (s.firstV count).length = count := by
  simp [State.firstV, h]

theorem State.getElem_firstV (s : State) (count k : Nat) (h : k < (s.firstV count).length) (hk : k < 16) :
    (s.firstV count)[k] = s.getV (BitVec.ofNat 4 k) := by
  simp [State.firstV, State.getV, Nat.mod_eq_of_lt hk]

end Sys2Proof.Machine
end

