-- ==== Sys2Proof/Laws/Stack.lean ====
section
/-! SUPPORT. Everything the stack engine can do (41_control_transfer.md R130 to R132). -/

namespace Sys2Proof.Machine

open Sys2Proof

/-- The clamp brings any pointer into 0..16 (R130). -/
theorem clampSp_eq_min (sp : Nat) : clampSp sp = min sp 16 := by
  unfold clampSp Config.stackCap
  split <;> omega

/-- A push moves the pointer down unless the stack is full (R131). -/
theorem State.push_sp (s : State) (a : Word) : (s.push a).sp = min s.sp 16 - 1 := by
  unfold State.push
  rw [clampSp_eq_min]
  split <;> simp_all

/-- A push writes the entry below the old top, and no other; on a full stack it writes none (R131). -/
theorem State.push_entry (s : State) (a : Word) (k : Fin 16) :
    (s.push a).stack[k] = if k.val + 1 = min s.sp 16 then a else s.stack[k] := by
  unfold State.push
  rw [clampSp_eq_min]
  split
  next h => simp [h]
  next h =>
    simp only [Fin.getElem_fin, Vector.getElem_setIfInBounds]
    by_cases hk : min s.sp 16 - 1 = k.val
    · simp [hk, show k.val + 1 = min s.sp 16 by omega]
    · simp [hk, show ¬ k.val + 1 = min s.sp 16 by omega]

/-- A push touches the stack and nothing else. -/
theorem State.push_eq (s : State) (a : Word) :
    s.push a = { s with sp := (s.push a).sp, stack := (s.push a).stack } := by
  unfold State.push
  split <;> rfl

/-- A pop moves the pointer up unless the stack is empty, and clears nothing (R132). -/
theorem State.pop_eq (s : State) : s.pop = { s with sp := min (s.sp + 1) 16 } := by
  unfold State.pop
  rw [clampSp_eq_min]
  unfold Config.stackCap
  split
  · rw [show min s.sp 16 + 1 = min (s.sp + 1) 16 by omega]
  · rw [show min (s.sp + 1) 16 = 16 by omega]

/-- A pop of a nonempty stack answers the entry at the pointer (R132). -/
theorem State.popValue_of_lt (s : State) (h : s.sp < 16) : s.popValue = s.stack[s.sp] := by
  have hc : clampSp s.sp = s.sp := by rw [clampSp_eq_min]; omega
  simp [State.popValue, hc, Config.stackCap, h]

/-- A pop of an empty stack answers 0 (R132). -/
theorem State.popValue_of_ge (s : State) (h : 16 ≤ s.sp) : s.popValue = 0 := by
  have hc : clampSp s.sp = 16 := by rw [clampSp_eq_min]; omega
  simp [State.popValue, hc, Config.stackCap]

/-- The stack is no part of memory (R131): neither operation changes a byte. -/
@[simp] theorem State.push_byteAt (s : State) (a : Word) (adr : Nat) : (s.push a).byteAt adr = s.byteAt adr := by
  rw [State.push_eq]; rfl

@[simp] theorem State.pop_byteAt (s : State) (adr : Nat) : s.pop.byteAt adr = s.byteAt adr := by
  rw [State.pop_eq]; rfl

end Sys2Proof.Machine
end

