-- ==== Sys2Proof/Tests/Slice0.lean ====
section
/-! SUPPORT. Tests of the model's own. Expected results are the vectors of 95_test_vectors.md, named by their ids (W, F, C,
A, M, D, K, L), or hand computation from the rule a comment names. The `witness_` theorems show, for each statement with
hypotheses, a state and operands that meet them. -/

namespace Sys2Proof.Tests

open Sys2Proof Sys2Proof.Machine Sys2Proof.Safety

/-- The state after LOAD of an empty image: reset and Ready. -/
def ready : State := { State.reset with running := true }

/-- One field of the state an execution leaves. -/
def seen {α : Type} (r : Result) (f : State → α) : Option α :=
  match r with
  | .next t => some (f t)
  | .fault _ => none
  | .refused _ => none

/-- Several bytes of memory in a state. -/
def peek (a n : Nat) (s : State) : List Byte := (List.range n).map fun k => s.memRead (a + k)

/-- The Ready state with V1, V2 and VF set. -/
def regs (a b f : Byte) : State := ((ready.setV 1 a).setV 2 b).setV 0xF f

/-! ### What the checks refuse (R91, R270) -/

theorem test_illegal_group0 : legalWord 0x01E0 = false := by decide
theorem test_illegal_sys : legalWord 0x0123 = false := by decide
theorem test_illegal_group5 : legalWord 0x5121 = false := by decide
theorem test_illegal_group8 : legalWord 0x8128 = false := by decide
theorem test_illegal_group9 : legalWord 0x912F = false := by decide
theorem test_illegal_groupE : legalWord 0xE19F = false := by decide
theorem test_illegal_groupF : legalWord 0xF130 = false := by decide
theorem test_legal_word : legalWord 0x812E = true := by decide
theorem test_image_too_long : imageFits (List.replicate 3585 0) = false := by
  unfold imageFits; rw [List.length_replicate]; decide
theorem test_image_fits : imageFits (List.replicate 3584 0) = true := by
  unfold imageFits; rw [List.length_replicate]; decide

/-! ### Every constructor's word, written out from its encoding (R85 to R90), and its encoding back -/

theorem test_decode_group0 : decodeWord 0x00E0 = some .cls ∧ decodeWord 0x00EE = some .ret := by decide
theorem test_decode_nnn :
    decodeWord 0x1ABC = some (.jp 0xABC) ∧ decodeWord 0x2345 = some (.call 0x345) ∧
    decodeWord 0xA123 = some (.ldI 0x123) ∧ decodeWord 0xBFED = some (.jpV0 0xFED) := by decide
theorem test_decode_xkk :
    decodeWord 0x3A42 = some (.seImm 0xA 0x42) ∧ decodeWord 0x4B17 = some (.sneImm 0xB 0x17) ∧
    decodeWord 0x6A2F = some (.ldImm 0xA 0x2F) ∧ decodeWord 0x7102 = some (.addImm 1 0x02) ∧
    decodeWord 0xC30F = some (.rnd 3 0x0F) := by decide
theorem test_decode_xy :
    decodeWord 0x5120 = some (.seReg 1 2) ∧ decodeWord 0x9340 = some (.sneReg 3 4) ∧
    decodeWord 0xD125 = some (.drw 1 2 5) := by decide
theorem test_decode_group8 :
    decodeWord 0x8120 = some (.ldReg 1 2) ∧ decodeWord 0x8121 = some (.orReg 1 2) ∧
    decodeWord 0x8122 = some (.andReg 1 2) ∧ decodeWord 0x8123 = some (.xorReg 1 2) ∧
    decodeWord 0x8124 = some (.addReg 1 2) ∧ decodeWord 0x8125 = some (.subReg 1 2) ∧
    decodeWord 0x8126 = some (.shr 1 2) ∧ decodeWord 0x8127 = some (.subnReg 1 2) ∧
    decodeWord 0x812E = some (.shl 1 2) := by decide
theorem test_decode_groupE : decodeWord 0xE79E = some (.skp 7) ∧ decodeWord 0xE8A1 = some (.sknp 8) := by decide
theorem test_decode_groupF :
    decodeWord 0xF107 = some (.ldVxDT 1) ∧ decodeWord 0xF20A = some (.ldVxK 2) ∧
    decodeWord 0xF315 = some (.ldDTVx 3) ∧ decodeWord 0xF418 = some (.ldSTVx 4) ∧
    decodeWord 0xF51E = some (.addI 5) ∧ decodeWord 0xF629 = some (.ldF 6) ∧ decodeWord 0xF733 = some (.ldB 7) ∧
    decodeWord 0xF855 = some (.storeRegs 8) ∧ decodeWord 0xF965 = some (.loadRegs 9) := by decide
theorem test_decode_illegal :
    decodeWord 0x0000 = none ∧ decodeWord 0x00EF = none ∧ decodeWord 0x812F = none ∧ decodeWord 0xF090 = none ∧
    decodeWord 0xFFFF = none := by decide
theorem test_encode_formats :
    encode (.jp 0xABC) = 0x1ABC ∧ encode (.addImm 1 2) = 0x7102 ∧ encode (.shl 1 2) = 0x812E ∧
    encode (.drw 1 2 5) = 0xD125 ∧ encode (.storeRegs 8) = 0xF855 := by decide
/-- R64: the byte at the lower address is the high byte; one byte is no instruction (R80). -/
theorem test_decode_bytes :
    decode [0x6A, 0x2F, 0x00] = .ok (.ldImm 0xA 0x2F, [0x00]) ∧ decode [0x00, 0x00] = .error (.illegalWord 0) ∧
    decode [0x6A] = .error .truncated := ⟨rfl, rfl, rfl⟩
theorem test_decodeTableWord : decodeTableWord 16 0x812E = some (.shl 1 2) := by decide
theorem test_decodeTableWord_illegal : decodeTableWord 16 0x0000 = none := by decide

/-! ### Control transfer -/

theorem test_C1_jp : seen (exec (.jp 0xABC) ready) (·.pc) = some 0xABC := by decide
theorem test_C3_call :
    seen (exec (.call 0x300) (ready.setPc 0x202)) (fun t => (t.pc, t.sp, t.stack[15])) = some (0x300, 15, 0x202) := by
  decide
/-- C4: a full stack drops the push, reports it, and jumps. -/
theorem test_C4_call_full :
    seen (exec (.call 0x300) { ready with sp := 0 }) (fun t => (t.pc, t.sp, t.stack[0])) = some (0x300, 0, 0) ∧
    diagnosticOf (.call 0x300) { ready with sp := 0 } = some .stackOverflow := by decide
theorem test_C5_ret :
    seen (exec .ret { ready with sp := 15, stack := ready.stack.set 15 0x202 }) (fun t => (t.pc, t.sp, t.stack[15])) =
      some (0x202, 16, 0x202) := by decide
theorem test_C6_ret_empty :
    seen (exec .ret ready) (fun t => (t.pc, t.sp)) = some (0, 16) ∧ diagnosticOf .ret ready = some .stackUnderflow := by
  decide
theorem test_C7_se_taken : seen (exec (.seImm 3 0x42) ((ready.setV 3 0x42).setPc 0x202)) (·.pc) = some 0x204 := by decide
theorem test_C8_se_not_taken :
    seen (exec (.seImm 3 0x42) ((ready.setV 3 0x41).setPc 0x202)) (·.pc) = some 0x202 := by decide
theorem test_C9_sne_taken : seen (exec (.sneImm 3 0x42) ((ready.setV 3 0x41).setPc 0x202)) (·.pc) = some 0x204 := by
  decide
theorem test_C10_se_reg : seen (exec (.seReg 1 2) ((regs 7 7 0).setPc 0x202)) (·.pc) = some 0x204 := by decide
theorem test_C12_sne_reg : seen (exec (.sneReg 1 2) ((regs 7 8 0).setPc 0x202)) (·.pc) = some 0x204 := by decide
theorem test_C13_sne_same : seen (exec (.sneReg 1 1) ((regs 7 8 0).setPc 0x202)) (·.pc) = some 0x202 := by decide
theorem test_C15_jpV0 : seen (exec (.jpV0 0xFFF) (ready.setV 0 0xFF)) (·.pc) = some 0x10FE := by decide

/-! ### ALU -/

theorem test_A2_ld_vf : seen (exec (.ldImm 0xF 0x07) (regs 0 0 0x33)) (·.getV 0xF) = some 0x07 := by decide
theorem test_A3_add_imm :
    seen (exec (.addImm 1 0x02) (regs 0xFF 0 0)) (fun t => (t.getV 1, t.getV 0xF)) = some (0x01, 1) := by decide
theorem test_A6_add_imm_vf : seen (exec (.addImm 0xF 0x80) (regs 0 0 0x80)) (·.getV 0xF) = some 1 := by decide
theorem test_A8_ld_reg : seen (exec (.ldReg 1 2) (regs 0 9 0)) (·.getV 1) = some 9 := by decide
theorem test_A9_or :
    seen (exec (.orReg 1 2) (regs 0x0C 0x0A 0x55)) (fun t => (t.getV 1, t.getV 0xF)) = some (0x0E, 0x55) := by decide
theorem test_A10_and : seen (exec (.andReg 1 2) (regs 0x0C 0x0A 0)) (·.getV 1) = some 0x08 := by decide
theorem test_A11_xor : seen (exec (.xorReg 1 2) (regs 0x0C 0x0A 0)) (·.getV 1) = some 0x06 := by decide
theorem test_A13_add :
    seen (exec (.addReg 1 2) (regs 0xF0 0x20 0)) (fun t => (t.getV 1, t.getV 0xF)) = some (0x10, 1) := by decide
theorem test_A16_add_vf : seen (exec (.addReg 0xF 1) (regs 0x01 0 0xFF)) (·.getV 0xF) = some 1 := by decide
theorem test_A18_sub :
    seen (exec (.subReg 1 2) (regs 3 5 0)) (fun t => (t.getV 1, t.getV 0xF)) = some (0xFE, 0) := by decide
theorem test_A19_sub_equal :
    seen (exec (.subReg 1 2) (regs 5 5 0)) (fun t => (t.getV 1, t.getV 0xF)) = some (0, 1) := by decide
theorem test_A21_subn :
    seen (exec (.subnReg 1 2) (regs 3 5 0)) (fun t => (t.getV 1, t.getV 0xF)) = some (2, 1) := by decide
theorem test_A23_subn_vf :
    seen (exec (.subnReg 1 0xF) (regs 1 0 1)) (fun t => (t.getV 1, t.getV 0xF)) = some (0, 1) := by decide
theorem test_A25_shr :
    seen (exec (.shr 1 2) (regs 0xFF 0x02 1)) (fun t => (t.getV 1, t.getV 2, t.getV 0xF)) = some (0x01, 0x02, 0) := by
  decide
theorem test_A27_shr_vf : seen (exec (.shr 0xF 1) (regs 0x05 0 0)) (·.getV 0xF) = some 1 := by decide
theorem test_A28_shl :
    seen (exec (.shl 1 2) (regs 0 0x81 0)) (fun t => (t.getV 1, t.getV 0xF)) = some (0x02, 1) := by decide
theorem test_A30_shl_vf : seen (exec (.shl 0xF 1) (regs 0x01 0 9)) (·.getV 0xF) = some 0 := by decide
/-- A32: kk = 0 gives 0 whatever the draw. -/
theorem test_A32_rnd : seen (exec (.rnd 3 0x00) ready) (·.getV 3) = some 0 := by
  simp [seen, exec, execRnd, State.getV_setV]
/-- A33: kk = 0xFF gives the draw, a free value. -/
theorem test_A33_rnd : seen (exec (.rnd 3 0xFF) ready) (fun t => (t.getV 3, t.draws)) = some (Config.freeByte 0, 1) := by
  simp [seen, exec, execRnd, State.getV_setV, State.nextRandom, ready, State.reset, State.resetWith]
  exact BitVec.and_allOnes

/-! ### Index register and memory -/

theorem test_M1_ldI : seen (exec (.ldI 0x300) ready) (·.i) = some 0x300 := by decide
theorem test_M2_addI :
    seen (exec (.addI 0) (((ready.setI 0x0FFF).setV 0 2).setV 0xF 0x55)) (fun t => (t.i, t.getV 0xF)) =
      some (0x1001, 0x55) := by decide
theorem test_M3_addI_wraps : seen (exec (.addI 0) ((ready.setI 0xFFFF).setV 0 1)) (·.i) = some 0 := by decide
theorem test_M5_ldF : seen (exec (.ldF 5) (ready.setV 5 0x1A)) (·.i) = some 0x032 := by decide
theorem test_M7_bcd : seen (exec (.ldB 4) ((ready.setI 0x300).setV 4 240)) (peek 0x300 3) = some [2, 4, 0] := by decide
theorem test_M10_bcd_wraps : seen (exec (.ldB 4) ((ready.setI 0xFFF).setV 4 123)) (peek 0xFFF 3) = some [1, 2, 3] := by
  decide
theorem test_M11_store :
    seen (exec (.storeRegs 2) ((regs 2 3 0).setI 0x300 |>.setV 0 1)) (fun t => (peek 0x300 4 t, t.i)) =
      some ([1, 2, 3, 0], 0x300) := by decide
theorem test_M12_store_one : seen (exec (.storeRegs 0) ((regs 0xBB 0 0).setI 0x300 |>.setV 0 0xAA)) (peek 0x300 2) =
    some [0xAA, 0] := by decide
/-- M15 reads glyph 0 and depends on the default font (log entry 1). -/
theorem test_M15_load_font :
    seen (exec (.loadRegs 4) ready) (fun t => [t.getV 0, t.getV 1, t.getV 2, t.getV 3, t.getV 4, t.getV 5]) =
      some [0xF0, 0x90, 0x90, 0x90, 0xF0, 0] := by decide
theorem test_M16_load_wraps :
    seen (exec (.loadRegs 0) ((ready.memWriteBytes 0x001 [0x90]).setI 0x1001)) (·.getV 0) = some 0x90 := by decide
/-- The font is a parameter (R46): with another font V0 is loaded from that font's first byte, and a RESET keeps it. -/
theorem test_other_font :
    let s := State.resetWith (standardFont.set 0 0x18)
    seen (exec (.loadRegs 0) s) (·.getV 0) = some 0x18 ∧ (resetCommand s).byteAt 0 = 0x18 := by decide
/-- Writing what the reset contents hold leaves nothing listed (log entry 2). -/
theorem test_canonical_write : Memory.write standardFont (Memory.write standardFont [] 0x300 7) 0x300 0 = [] := by decide

/-! ### Display -/

/-- The Ready state with I = 0x300, sprite bytes there, and V0, V1 as the corner. -/
def sprite (bytes : List Byte) (cx cy : Byte) : State :=
  (((ready.memWriteBytes 0x300 bytes).setI 0x300).setV 0 cx).setV 1 cy

theorem test_D1_cls : seen (exec .cls (ready.setFb (FrameBuffer.clear.toggle 5 7))) (·.pixel 5 7) = some false := by decide
theorem test_D5_draw_wraps :
    seen (exec (.drw 0 1 1) (sprite [0xC0] 63 0)) (fun t => [t.pixel 63 0, t.pixel 0 0, t.pixel 1 0]) =
      some [true, true, false] := by decide
/-- D11: one lit pixel goes off, the collision flag is 1. -/
theorem test_D11_collision :
    seen (exec (.drw 0 1 1) ((sprite [0xC0] 0 0).setFb (FrameBuffer.clear.toggle 1 0)))
      (fun t => (t.pixel 0 0, t.pixel 1 0, t.getV 0xF)) = some (true, false, 1) := by decide
/-- D9: y = F reads VF before it is cleared. -/
theorem test_D9_draw_at_vf :
    seen (exec (.drw 0 0xF 1) ((sprite [0x80] 0 0).setV 0xF 5)) (fun t => (t.pixel 0 5, t.getV 0xF)) =
      some (true, 0) := by decide

/-! ### Keypad and timers -/

/-- Key 7 down. -/
def key7 : Vector Bool 16 := (Vector.replicate 16 false).set 7 true

theorem test_K4_skp : seen (exec (.skp 0) { ready.setV 0 0x17 with key := key7, pc := 0x20A }) (·.pc) = some 0x20C := by
  decide
theorem test_K2_skp : seen (exec (.skp 0) { ready.setV 0 7 with pc := 0x20A }) (·.pc) = some 0x20A := by decide
theorem test_K3_sknp : seen (exec (.sknp 0) { ready.setV 0 7 with pc := 0x20A }) (·.pc) = some 0x20C := by decide
theorem test_K5_wait :
    seen (exec (.ldVxK 3) ready) (fun t => (t.pendingKey, t.running, t.runStatus)) =
      some (some 3, false, some .waitingForKey) := by decide
theorem test_K7_submit :
    ((submitKeyCommand (ready.awaitKey 3) 5).getV 3, (submitKeyCommand (ready.awaitKey 3) 5).runStatus) =
      (5, some .ready) := by decide
theorem test_K11_read_dt : seen (exec (.ldVxDT 1) (ready.setDT 7)) (fun t => (t.getV 1, t.dt)) = some (7, 7) := by decide
theorem test_K12_set_dt : seen (exec (.ldDTVx 0) (ready.setV 0 0x3C)) (·.dt) = some 0x3C := by decide
theorem test_K13_set_st :
    seen (exec (.ldSTVx 0) (ready.setV 0 0x1E)) (fun t => (t.st, t.soundActive)) = some (0x1E, true) := by decide
theorem test_K15_tick :
    ((tickCommand { ready with dt := 5, st := 1 }).dt, (tickCommand { ready with dt := 5, st := 1 }).st) = (4, 0) := by
  decide
theorem test_K16_tick_frozen : (tickCommand { ready.awaitKey 0 with dt := 5 }).dt = 5 := by decide

/-! ### The step, reset and load -/

theorem test_F2_bound : stepCommand (ready.setPc 0xFFF) =
    (.error (.programCounterOutOfBounds 0xFFF), ready.setPc 0xFFF) := by decide
theorem test_F4_odd_pc :
    seen (step ((ready.memWriteBytes 0x201 [0x60, 0x07]).setPc 0x201)) (fun t => (t.getV 0, t.pc)) = some (7, 0x203) := by
  decide
theorem test_F5_illegal : stepCommand ready = (.error (.unknownOpcode 0 0x200), ready.setPc 0x202) := by decide
theorem test_F8_gate_first : stepCommand (State.reset.setPc 0xFFF) = (.idle, State.reset.setPc 0xFFF) := by decide
theorem test_P6_font_word : (stepCommand (ready.setPc 0)).1 = .error (.unknownOpcode 0xF090 0) := by decide
theorem test_withFetchWord : seen (step (State.reset.withFetchWord 16 0x6A2F)) (fun t => (t.getV 0xA, t.pc)) =
    some (0x2F, 0x202) := by decide
theorem test_L4_odd_image :
    (runCommand (.load [0x60]) (ready.setV 5 3)).1 = .loaded ∧
    seen (step (runCommand (.load [0x60]) (ready.setV 5 3)).2) (fun t => (t.getV 0, t.getV 5, t.pc)) =
      some (0, 0, 0x202) := by decide

/-! ### Witnesses of the statements' hypotheses -/

/-- The invariant holds in the Ready state after an empty load. -/
theorem ready_inv : Inv ready :=
  ⟨Memory.reset_wf _, by decide, by decide, by decide, by decide⟩

/-- CallThenReturnRoundTrip, on an empty stack and on a stack with one place left. -/
theorem witness_call_then_return :
    (∃ s t m u : State, s.sp = 16 ∧ exec (.call 0x300) s = .next t ∧ m.sp = t.sp ∧ m.stack = t.stack ∧
      exec .ret m = .next u) ∧
    ∃ s t m u : State, s.sp = 1 ∧ exec (.call 0x300) s = .next t ∧ m.sp = t.sp ∧ m.stack = t.stack ∧
      exec .ret m = .next u :=
  ⟨⟨ready, _, _, _, rfl, rfl, rfl, rfl, rfl⟩, ⟨{ ready with sp := 1 }, _, _, _, rfl, rfl, rfl, rfl, rfl⟩⟩

/-- FetchSeesTheBlockStoreBeforeIt, at the last fetch address. -/
theorem witness_fetch_sees_store : ∃ s t : State, s.i = s.pc ∧ s.pc.toNat = 4094 ∧ exec (.storeRegs 1) s = .next t :=
  ⟨{ ready with i := 4094, pc := 4094 }, _, rfl, rfl, rfl⟩

/-- DrawingTwiceRestoresTheScreen, from a clear screen, with a sprite that has a set bit. -/
theorem witness_draw_twice : ∃ s t u : State, exec (.drw 0 1 1) s = .next t ∧ exec (.drw 0 1 1) t = .next u ∧
    (∀ c r : Nat, s.pixel c r = false) ∧ spriteCovers s 0 0 1 0 0 = true :=
  ⟨sprite [0xFF] 0 0, _, _, rfl, rfl,
    fun c r => by simp [sprite, State.pixel, FrameBuffer.pixel, ready, State.reset, State.resetWith], by decide⟩

/-- KeyWaitSurvivesStepsAndTicks. -/
theorem witness_key_wait : ∃ t : State, exec (.ldVxK 3) { ready with key := key7 } = .next t ∧
    ∀ c ∈ [Command.step, Command.tick], c = .step ∨ c = .tick := ⟨_, rfl, by simp⟩

/-- SubmitKeyEndsAWaitAndNothingElse, both clauses. -/
theorem witness_submit_key : ready.pendingKey = none ∧ (ready.awaitKey 0xF).pendingKey = some 0xF := by decide

/-- StepRunsTheDecodedInstruction, at the last fetch address. -/
theorem witness_step_runs :
    ∃ s : State, s.running = true ∧ s.pendingKey = none ∧ s.pc.toNat = 4094 ∧
      decodeWord (s.byteAt s.pc.toNat ++ s.byteAt (s.pc.toNat + 1)) = some (.jp 0x200) ∧
      ∃ t, exec (.jp 0x200) { s with pc := s.pc + 2 } = .next t :=
  ⟨(ready.memWriteBytes 4094 [0x12, 0x00]).setPc 4094, rfl, rfl, rfl, by decide, _, rfl⟩

/-- ClosedGateStepIsIdle, Unloaded and waiting. -/
theorem witness_closed_gate : State.reset.running = false ∧ (ready.awaitKey 3).pendingKey.isSome = true := by decide

/-- PcAbove4094RaisesOutOfBounds, at its least pc. -/
theorem witness_pc_above : (ready.setPc 4095).running = true ∧ (ready.setPc 4095).pendingKey = none ∧
    4094 < (ready.setPc 4095).pc.toNat := by decide

/-- IllegalWordRaisesUnknownOpcode: zeroed memory. -/
theorem witness_illegal_word : ready.running = true ∧ ready.pendingKey = none ∧ ready.pc.toNat ≤ 4094 ∧
    decodeWord (ready.byteAt ready.pc.toNat ++ ready.byteAt (ready.pc.toNat + 1)) = none := by decide

/-- PcAfterEveryInstruction, EachElementHasItsOwnWriters, SoundTimerIsReadByNoInstruction: the hypothesis that an
instruction has a next state. OnlyCallAndRetReachTheStack, OnlyKeySkipsReadTheKeys and OnlyRandomUsesADraw: an
instruction that is none of those named. -/
theorem witness_exec : (∃ t, exec .cls ready = .next t) ∧ Instr.cls ≠ .ret ∧ (∀ a, Instr.cls ≠ .call a) ∧
    (∀ x, Instr.cls ≠ .skp x ∧ Instr.cls ≠ .sknp x) ∧ ∀ x kk, Instr.cls ≠ .rnd x kk :=
  ⟨⟨_, rfl⟩, by simp, by simp, by simp, by simp⟩

/-- OnlyListedInstructionsWriteVf: VF changes implicitly, and as a destination. -/
theorem witness_vf_changes :
    (∃ t, exec (.addImm 1 2) (regs 0xFF 0 0) = .next t ∧ t.getV 0xF ≠ (regs 0xFF 0 0).getV 0xF) ∧
    ∃ t, exec (.ldImm 0xF 2) ready = .next t ∧ t.getV 0xF ≠ ready.getV 0xF :=
  ⟨⟨_, rfl, by decide⟩, ⟨_, rfl, by decide⟩⟩

/-- SelfJumpIsAFixedPoint, at the entry point and at the last fetch address. -/
theorem witness_self_jump :
    (ready.memWriteBytes 0x200 [0x12, 0x00]).fetch16 = packNNN 0x1 0x200 ∧
    ((ready.memWriteBytes 4094 [0x1F, 0xFE]).setPc 4094).fetch16 = packNNN 0x1 4094 := by decide

/-- ResetLeavesTheResetValues. -/
theorem witness_reset : ∃ s t : State, s = regs 1 2 3 ∧ s.font = standardFont ∧ runCommand .reset s = (.done, t) :=
  ⟨_, _, rfl, rfl, rfl⟩

/-- LoadResetsCopiesAndStartsOrRejects, both clauses at their boundary. -/
theorem witness_load_lengths :
    (List.replicate 3584 (0 : Byte)).length ≤ 3584 ∧ 3584 < (List.replicate 3585 (0 : Byte)).length := by
  rw [List.length_replicate, List.length_replicate]; decide

/-- RunStatusFollowsTheStateMachine: each of the three statuses in a state that meets the invariant. -/
theorem witness_statuses :
    (Inv State.reset ∧ State.reset.runStatus = some .unloaded) ∧ (Inv ready ∧ ready.runStatus = some .ready) ∧
    Inv (ready.awaitKey 3) ∧ (ready.awaitKey 3).runStatus = some .waitingForKey :=
  ⟨⟨⟨Memory.reset_wf _, by decide, by decide, by decide, by decide⟩, rfl⟩, ⟨ready_inv, rfl⟩,
    ⟨Memory.reset_wf _, by decide, by decide, by decide, by decide⟩, rfl⟩

/-- RunStatusFollowsTheStateMachine, the clauses about a Ready STEP: a key wait at pc, another word at pc, no fetch. -/
theorem witness_ready_steps :
    (ready.memWriteBytes 0x200 [0xF3, 0x0A]).pc.toNat ≤ 4094 ∧
    decodeWord (ready.memWriteBytes 0x200 [0xF3, 0x0A]).fetch16 = some (.ldVxK 3) ∧
    (∀ x, decodeWord ready.fetch16 ≠ some (.ldVxK x)) ∧ 4094 < (ready.setPc 4095).pc.toNat := by decide

/-- EveryStepKeepsTheInvariant and EveryCommandListKeepsTheInvariant: a state that meets the invariant and steps. -/
theorem witness_step_inv : Inv State.reset ∧ step State.reset = .next State.reset :=
  ⟨⟨Memory.reset_wf _, by decide, by decide, by decide, by decide⟩, rfl⟩

/-- CanonicalMemoriesThatReadAlikeAreEqual: a canonical memory that lists a cell. -/
theorem witness_canonical : Memory.wf standardFont [(0x300, 7)] := by decide

/-- EncodeOfDecodeIsTheWord. -/
theorem witness_decodes : decodeWord 0xD125 = some (.drw 1 2 5) := by decide

end Sys2Proof.Tests
end

section
/-! Control transfer: the jump and the immediate skips (41_control_transfer.md R134, R136, R137). The decoder's equation
for each word, the value of an address operand and the frame of a pc write come first. -/

namespace Sys2Proof

/-! ### The decoder on a packed word, by its group (30_encoding.md R82, R85) -/

theorem decodeWord_packNNN_jp (nnn : Addr12) : decodeWord (packNNN 0x1 nnn) = some (.jp nnn) := by
  simp [decodeWord, opGroup_packNNN, fieldNNN_packNNN]

theorem decodeWord_packXKK_seImm (x : Nibble) (kk : Byte) : decodeWord (packXKK 0x3 x kk) = some (.seImm x kk) := by
  simp [decodeWord, opGroup_packXKK, fieldX_packXKK, fieldKK_packXKK]

theorem decodeWord_packXKK_sneImm (x : Nibble) (kk : Byte) : decodeWord (packXKK 0x4 x kk) = some (.sneImm x kk) := by
  simp [decodeWord, opGroup_packXKK, fieldX_packXKK, fieldKK_packXKK]

end Sys2Proof

namespace Sys2Proof.Machine

open Sys2Proof Sys2Proof.Safety

/-! ### Operands and frames -/

/-- Zero extension keeps the number (30_encoding.md R83). -/
@[simp] theorem toNat_addrWord (nnn : Addr12) : (addrWord nnn).toNat = nnn.toNat :=
  BitVec.toNat_setWidth_of_le (by decide)

@[simp] theorem State.pixel_setPc (s : State) (target : Word) (c r : Nat) :
    (s.setPc target).pixel c r = s.pixel c r := rfl

/-- Setting pc keeps every other part of the state. -/
theorem State.setPc_keepsAllBut_pc (s : State) (target : Word) : KeepsAllBut [.pc] s (s.setPc target) := by
  intro p hp
  cases p with
  | pc => simp at hp
  | regs | index | stack | delay | sound | memory | display | keys | status | font | draws => simp [Keeps]

/-! ### What each instruction does, as one pc write -/

/-- `JP nnn` (R134). -/
theorem exec_jp (nnn : Addr12) (s : State) : exec (.jp nnn) s = .next (s.setPc (addrWord nnn)) := rfl

/-- `SE Vx, kk` (R136). -/
theorem exec_seImm (x : Nibble) (kk : Byte) (s : State) :
    exec (.seImm x kk) s = .next (s.setPc (if s.getV x = kk then s.pc + 2 else s.pc)) := by
  simp [exec, execSeImm, State.skipIf_eq]

/-- `SNE Vx, kk` (R137). -/
theorem exec_sneImm (x : Nibble) (kk : Byte) (s : State) :
    exec (.sneImm x kk) s = .next (s.setPc (if s.getV x = kk then s.pc else s.pc + 2)) := by
  simp [exec, execSneImm, State.skipIf_eq]

/-- Settles O9: the jump is one pc write, and the target's number is that of the field. -/
theorem jumpSetsOnlyPc : Obligations.JumpSetsOnlyPc := by
  intro s nnn
  exact ⟨decodeWord_packNNN_jp nnn, _, exec_jp nnn s, toNat_addrWord nnn, s.setPc_keepsAllBut_pc _⟩

/-- Settles O15: either skip is one pc write, whose value depends on the comparison alone. -/
theorem immediateSkipsCompareVxWithKk : Obligations.ImmediateSkipsCompareVxWithKk := by
  intro s x kk
  refine ⟨decodeWord_packXKK_seImm x kk, decodeWord_packXKK_sneImm x kk, ?_, ?_⟩
  · exact ⟨_, exec_seImm x kk s, s.setPc_pc _, s.setPc_keepsAllBut_pc _⟩
  · exact ⟨_, exec_sneImm x kk s, s.setPc_pc _, s.setPc_keepsAllBut_pc _⟩

end Sys2Proof.Machine
end

section
/-! The register loads (42_alu.md R151, R153). The decoder's equation for each word and the frame of a register write come
first. -/

namespace Sys2Proof

/-! ### The decoder on a packed word, by its group (30_encoding.md R82, R85, R87) -/

theorem decodeWord_packXKK_ldImm (x : Nibble) (kk : Byte) : decodeWord (packXKK 0x6 x kk) = some (.ldImm x kk) := by
  simp [decodeWord, opGroup_packXKK, fieldX_packXKK, fieldKK_packXKK]

/-- A group 8 word is decoded on its selector nibble (R87). -/
theorem decodeWord_packXYN_group8 (x y n : Nibble) : decodeWord (packXYN 0x8 x y n) = decodeGroup8 x y n := by
  simp [decodeWord, opGroup_packXYN, fieldX_packXYN, fieldY_packXYN, fieldN_packXYN]

theorem decodeWord_packXYN_ldReg (x y : Nibble) : decodeWord (packXYN 0x8 x y 0x0) = some (.ldReg x y) :=
  decodeWord_packXYN_group8 x y 0x0

end Sys2Proof

namespace Sys2Proof.Machine

open Sys2Proof Sys2Proof.Safety

/-! ### The frame of a register write -/

@[simp] theorem State.pixel_setV (s : State) (x : Nibble) (val : Byte) (c r : Nat) :
    (s.setV x val).pixel c r = s.pixel c r := rfl

/-- Writing a register keeps every part of the state but the registers. -/
theorem State.setV_keepsAllBut_regs (s : State) (x : Nibble) (val : Byte) : KeepsAllBut [.regs] s (s.setV x val) := by
  intro p hp
  cases p with
  | regs => simp at hp
  | index | pc | stack | delay | sound | memory | display | keys | status | font | draws => simp [Keeps]

/-! ### What each load does, as one register write -/

/-- `LD Vx, kk` (R151). -/
theorem exec_ldImm (x : Nibble) (kk : Byte) (s : State) : exec (.ldImm x kk) s = .next (s.setV x kk) := rfl

/-- `LD Vx, Vy` (R153). -/
theorem exec_ldReg (x y : Nibble) (s : State) : exec (.ldReg x y) s = .next (s.setV x (s.getV y)) := rfl

/-- Settles O1: either load is one register write, and a register write changes the named register alone. -/
theorem registerLoadsWriteOnlyVx : Obligations.RegisterLoadsWriteOnlyVx := by
  intro s x y kk
  refine ⟨decodeWord_packXKK_ldImm x kk, decodeWord_packXYN_ldReg x y, ?_, ?_⟩
  · exact ⟨_, exec_ldImm x kk s, fun r => s.getV_setV x r kk, s.setV_keepsAllBut_regs x kk⟩
  · exact ⟨_, exec_ldReg x y s, fun r => s.getV_setV x r (s.getV y), s.setV_keepsAllBut_regs x (s.getV y)⟩

end Sys2Proof.Machine
end

section
/-! The index load (43_index_memory.md R180). The decoder's equation for its word and the frame of an index write come
first. -/

namespace Sys2Proof

/-! ### The decoder on a packed word, by its group (30_encoding.md R82, R85) -/

theorem decodeWord_packNNN_ldI (nnn : Addr12) : decodeWord (packNNN 0xA nnn) = some (.ldI nnn) := by
  simp [decodeWord, opGroup_packNNN, fieldNNN_packNNN]

end Sys2Proof

namespace Sys2Proof.Machine

open Sys2Proof Sys2Proof.Safety

/-! ### The frame of an index write -/

@[simp] theorem State.pixel_setI (s : State) (a : Word) (c r : Nat) : (s.setI a).pixel c r = s.pixel c r := rfl

/-- Setting I keeps every other part of the state. -/
theorem State.setI_keepsAllBut_index (s : State) (a : Word) : KeepsAllBut [.index] s (s.setI a) := by
  intro p hp
  cases p with
  | index => simp at hp
  | regs | pc | stack | delay | sound | memory | display | keys | status | font | draws => simp [Keeps]

/-! ### What the instruction does, as one index write -/

/-- `LD I, nnn` (R180). -/
theorem exec_ldI (nnn : Addr12) (s : State) : exec (.ldI nnn) s = .next (s.setI (addrWord nnn)) := rfl

/-- Settles O17: the load is one index write, and the number written is that of the field. -/
theorem loadIndexSetsOnlyI : Obligations.LoadIndexSetsOnlyI := by
  intro s nnn
  exact ⟨decodeWord_packNNN_ldI nnn, _, exec_ldI nnn s, toNat_addrWord nnn, s.setI_keepsAllBut_index _⟩

end Sys2Proof.Machine
end

section
/-! Clearing the screen (44_display.md R201). The decoder's equation for its word and the frame of a frame buffer write come
first. -/

namespace Sys2Proof

/-- A group 0 word is decoded as a whole (30_encoding.md R86). -/
theorem decodeWord_cls : decodeWord 0x00E0 = some .cls := by decide

end Sys2Proof

namespace Sys2Proof.Machine

open Sys2Proof Sys2Proof.Safety

/-! ### What a frame buffer write shows and keeps -/

@[simp] theorem State.pixel_setFb (s : State) (fb : FrameBuffer) (c r : Nat) :
    (s.setFb fb).pixel c r = fb.pixel c r := rfl

/-- Replacing the frame buffer keeps every other part of the state. -/
theorem State.setFb_keepsAllBut_display (s : State) (fb : FrameBuffer) : KeepsAllBut [.display] s (s.setFb fb) := by
  intro p hp
  cases p with
  | display => simp at hp
  | regs | index | pc | stack | delay | sound | memory | keys | status | font | draws => simp [Keeps]

/-! ### What the instruction does, as one frame buffer write -/

/-- `CLS` (R201). -/
theorem exec_cls (s : State) : exec .cls s = .next (s.setFb FrameBuffer.clear) := rfl

/-- Settles O24: the instruction is one frame buffer write, and the buffer written has no lit pixel. -/
theorem clearScreenClearsEveryPixel : Obligations.ClearScreenClearsEveryPixel := by
  refine ⟨decodeWord_cls, fun s => ⟨_, exec_cls s, fun c r => ?_, s.setFb_keepsAllBut_display _⟩⟩
  rw [State.pixel_setFb, FrameBuffer.pixel_clear]

end Sys2Proof.Machine
end

section
/-! TICK (60_exceptions.md R255). The frame of a write to both timers and the arithmetic of the count come first. -/

namespace Sys2Proof.Machine

open Sys2Proof Sys2Proof.Safety

/-! ### Frames -/

/-- A state keeps every part of itself. -/
theorem keepsAllBut_refl (ps : List Part) (s : State) : KeepsAllBut ps s s := by
  intro p _
  cases p <;> simp [Keeps]

@[simp] theorem State.pixel_setDT (s : State) (a : Byte) (c r : Nat) : (s.setDT a).pixel c r = s.pixel c r := rfl

@[simp] theorem State.pixel_setST (s : State) (a : Byte) (c r : Nat) : (s.setST a).pixel c r = s.pixel c r := rfl

/-- Setting both timers keeps every other part of the state. -/
theorem State.setDT_setST_keepsAllBut_timers (s : State) (d e : Byte) :
    KeepsAllBut [.delay, .sound] s ((s.setDT d).setST e) := by
  intro p hp
  cases p with
  | delay | sound => simp at hp
  | regs | index | pc | stack | memory | display | keys | status | font | draws => simp [Keeps]

/-! ### What TICK does, as two timer writes or none -/

/-- One less, floored at zero, still fits a byte. -/
theorem toNat_ofNat_pred (b : Byte) : (BitVec.ofNat 8 (b.toNat - 1)).toNat = b.toNat - 1 := by
  rw [BitVec.toNat_ofNat, Nat.mod_eq_of_lt (Nat.sub_lt_of_lt b.isLt)]

theorem runCommand_tick_of_running {s : State} (h : s.running = true) :
    runCommand .tick s =
      (.done, (s.setDT (BitVec.ofNat 8 (s.dt.toNat - 1))).setST (BitVec.ofNat 8 (s.st.toNat - 1))) := by
  simp [runCommand, tickCommand, h, State.setDT, State.setST]

theorem runCommand_tick_of_not_running {s : State} (h : ¬ s.running = true) :
    runCommand .tick s = (.done, s) := by
  simp [runCommand, tickCommand, h]

/-- Settles O33: a running machine's tick is one write to each timer, a stopped one's is none. -/
theorem tickCountsBothTimersDownToZero : Obligations.TickCountsBothTimersDownToZero := by
  intro s
  by_cases h : s.running = true
  · rw [runCommand_tick_of_running h, if_pos h, if_pos h]
    exact ⟨toNat_ofNat_pred s.dt, toNat_ofNat_pred s.st, rfl, s.setDT_setST_keepsAllBut_timers _ _⟩
  · rw [runCommand_tick_of_not_running h, if_neg h, if_neg h]
    exact ⟨rfl, rfl, rfl, keepsAllBut_refl _ s⟩

end Sys2Proof.Machine
end

section
/-! The decoder and the encoder (30_encoding.md R80 to R93): each undoes the other. The words of the groups with a selector
come first; the fields of any word give it back. -/

namespace Sys2Proof

/-! ### Decoding an encoded instruction -/

/-- A group E word is decoded on its low byte (R88). -/
theorem decodeWord_packXKK_groupE (x : Nibble) (kk : Byte) : decodeWord (packXKK 0xE x kk) = decodeGroupE x kk := by
  simp [decodeWord, opGroup_packXKK, fieldX_packXKK, fieldKK_packXKK]

/-- A group F word is decoded on its low byte (R89). -/
theorem decodeWord_packXKK_groupF (x : Nibble) (kk : Byte) : decodeWord (packXKK 0xF x kk) = decodeGroupF x kk := by
  simp [decodeWord, opGroup_packXKK, fieldX_packXKK, fieldKK_packXKK]

/-- Decoding the word of an instruction gives it back, one format and group at a time. -/
theorem decodeWord_encode (i : Instr) : decodeWord (encode i) = some i := by
  cases i with
  | cls => exact decodeWord_cls
  | ret => decide
  | jp nnn | call nnn | ldI nnn | jpV0 nnn => simp [encode, decodeWord, opGroup_packNNN, fieldNNN_packNNN]
  | seImm x kk | sneImm x kk | ldImm x kk | addImm x kk | rnd x kk =>
    simp [encode, decodeWord, opGroup_packXKK, fieldX_packXKK, fieldKK_packXKK]
  | seReg x y | sneReg x y | drw x y n =>
    simp [encode, decodeWord, whenZero, opGroup_packXYN, fieldX_packXYN, fieldY_packXYN, fieldN_packXYN]
  | ldReg x y | orReg x y | andReg x y | xorReg x y | addReg x y | subReg x y | shr x y | subnReg x y | shl x y =>
    exact decodeWord_packXYN_group8 x y _
  | skp x | sknp x => exact decodeWord_packXKK_groupE x _
  | ldVxDT x | ldVxK x | ldDTVx x | ldSTVx x | addI x | ldF x | ldB x | storeRegs x | loadRegs x =>
    exact decodeWord_packXKK_groupF x _

/-- Settles O55: the decoder undoes the encoder on every format. -/
theorem decodeOfEncodeIsTheInstruction : Obligations.DecodeOfEncodeIsTheInstruction := decodeWord_encode

/-! ### The fields of a word give it back (R81, R82) -/

theorem packNNN_fields (w : Word) : packNNN (opGroup w) (fieldNNN w) = w := by
  apply BitVec.eq_of_getLsbD_eq
  intro j hj
  rw [getLsbD_packNNN]
  interval_cases j <;> simp [opGroup, fieldNNN]

theorem packXKK_fields (w : Word) : packXKK (opGroup w) (fieldX w) (fieldKK w) = w := by
  apply BitVec.eq_of_getLsbD_eq
  intro j hj
  rw [getLsbD_packXKK]
  interval_cases j <;> simp [opGroup, fieldX, fieldKK]

theorem packXYN_fields (w : Word) : packXYN (opGroup w) (fieldX w) (fieldY w) (fieldN w) = w := by
  apply BitVec.eq_of_getLsbD_eq
  intro j hj
  rw [getLsbD_packXYN]
  interval_cases j <;> simp [opGroup, fieldX, fieldY, fieldN]

/-! ### Encoding a decoded word -/

/-! A word of a known group, format by format. -/

theorem packNNN_of_group {w : Word} {g : Nibble} (hg : (opGroup w).toNat = g.toNat) : packNNN g (fieldNNN w) = w := by
  rw [← BitVec.eq_of_toNat_eq hg, packNNN_fields]

theorem packXKK_of_group {w : Word} {g : Nibble} (hg : (opGroup w).toNat = g.toNat) :
    packXKK g (fieldX w) (fieldKK w) = w := by
  rw [← BitVec.eq_of_toNat_eq hg, packXKK_fields]

theorem packXYN_of_group {w : Word} {g : Nibble} (hg : (opGroup w).toNat = g.toNat) :
    packXYN g (fieldX w) (fieldY w) (fieldN w) = w := by
  rw [← BitVec.eq_of_toNat_eq hg, packXYN_fields]

theorem encode_of_decodeGroup0 {w : Word} {i : Instr} (h : decodeGroup0 w = some i) : encode i = w := by
  unfold decodeGroup0 at h
  split_ifs at h with h1 h2 <;> cases h
  · exact h1.symm
  · exact h2.symm

theorem eq_of_whenZero_eq_some {n : Nibble} {i j : Instr} (h : whenZero n i = some j) : n = 0 ∧ j = i := by
  unfold whenZero at h
  split_ifs at h with hn
  exact ⟨hn, (Option.some.inj h).symm⟩

theorem encode_of_decodeGroup8 {x y n : Nibble} {i : Instr} (h : decodeGroup8 x y n = some i) :
    encode i = packXYN 0x8 x y n := by
  unfold decodeGroup8 at h
  split at h <;> cases h
  all_goals
    rename_i hn
    exact congrArg (packXYN 0x8 x y) (BitVec.eq_of_toNat_eq hn).symm

theorem encode_of_decodeGroupE {x : Nibble} {kk : Byte} {i : Instr} (h : decodeGroupE x kk = some i) :
    encode i = packXKK 0xE x kk := by
  unfold decodeGroupE at h
  split_ifs at h with hkk hkk <;> cases h <;> rw [hkk] <;> rfl

theorem encode_of_decodeGroupF {x : Nibble} {kk : Byte} {i : Instr} (h : decodeGroupF x kk = some i) :
    encode i = packXKK 0xF x kk := by
  unfold decodeGroupF at h
  split_ifs at h with hkk hkk hkk hkk hkk hkk hkk hkk hkk <;> cases h <;> rw [hkk] <;> rfl

/-- A decoded word is the word of its instruction: each group is encoded with the fields it was decoded from. -/
theorem encode_of_decodeWord {w : Word} {i : Instr} (h : decodeWord w = some i) : encode i = w := by
  unfold decodeWord at h
  split at h
  case h_1 hg => exact encode_of_decodeGroup0 h
  case h_2 hg | h_3 hg | h_11 hg | h_12 hg =>
    cases h
    exact packNNN_of_group hg
  case h_4 hg | h_5 hg | h_7 hg | h_8 hg | h_13 hg =>
    cases h
    exact packXKK_of_group hg
  case h_6 hg | h_10 hg =>
    obtain ⟨hn, rfl⟩ := eq_of_whenZero_eq_some h
    rw [encode, ← hn]
    exact packXYN_of_group hg
  case h_9 hg =>
    rw [encode_of_decodeGroup8 h]
    exact packXYN_of_group hg
  case h_14 hg =>
    cases h
    exact packXYN_of_group hg
  case h_15 hg =>
    rw [encode_of_decodeGroupE h]
    exact packXKK_of_group hg
  case h_16 =>
    rw [encode_of_decodeGroupF h]
    refine packXKK_of_group ?_
    have hlt := (opGroup w).isLt
    change (opGroup w).toNat = 15
    grind

/-- Settles O56: `encode_of_decodeWord` is the statement. -/
theorem encodeOfDecodeIsTheWord : Obligations.EncodeOfDecodeIsTheWord := fun _ _ => encode_of_decodeWord

/-! ### The illegal words -/

theorem decodeGroup0_eq_none_iff (w : Word) : decodeGroup0 w = none ↔ w ≠ 0x00E0 ∧ w ≠ 0x00EE := by
  unfold decodeGroup0
  split_ifs <;> simp_all

theorem whenZero_eq_none_iff (n : Nibble) (i : Instr) : whenZero n i = none ↔ n.toNat ≠ 0 := by
  unfold whenZero
  split_ifs <;> simp_all [BitVec.toNat_eq]

theorem decodeGroup8_eq_none_iff (x y n : Nibble) :
    decodeGroup8 x y n = none ↔ n.toNat ∈ [0x8, 0x9, 0xA, 0xB, 0xC, 0xD, 0xF] := by
  have hn : n.toNat < 16 := n.isLt
  unfold decodeGroup8
  generalize n.toNat = k at hn
  interval_cases k <;> simp

theorem decodeGroupE_eq_none_iff (x : Nibble) (kk : Byte) : decodeGroupE x kk = none ↔ kk.toNat ∉ [0x9E, 0xA1] := by
  unfold decodeGroupE
  split_ifs <;> simp_all [BitVec.toNat_eq]

theorem decodeGroupF_eq_none_iff (x : Nibble) (kk : Byte) :
    decodeGroupF x kk = none ↔ kk.toNat ∉ [0x07, 0x0A, 0x15, 0x18, 0x1E, 0x29, 0x33, 0x55, 0x65] := by
  unfold decodeGroupF
  split_ifs <;> simp_all [BitVec.toNat_eq]

theorem toNat_opGroup (w : Word) : (opGroup w).toNat = w.toNat / 4096 := by
  have := w.isLt
  simp [opGroup, Nat.shiftRight_eq_div_pow]
  omega

theorem toNat_fieldN (w : Word) : (fieldN w).toNat = w.toNat % 16 := by simp [fieldN]

theorem toNat_fieldKK (w : Word) : (fieldKK w).toNat = w.toNat % 256 := by simp [fieldKK]

/-- The words that do not decode, by their fields (R91). -/
theorem decodeWord_eq_none_iff (w : Word) : decodeWord w = none ↔
    ((opGroup w).toNat = 0x0 ∧ w ≠ 0x00E0 ∧ w ≠ 0x00EE) ∨
    ((opGroup w).toNat = 0x5 ∧ (fieldN w).toNat ≠ 0) ∨
    ((opGroup w).toNat = 0x8 ∧ (fieldN w).toNat ∈ [0x8, 0x9, 0xA, 0xB, 0xC, 0xD, 0xF]) ∨
    ((opGroup w).toNat = 0x9 ∧ (fieldN w).toNat ≠ 0) ∨
    ((opGroup w).toNat = 0xE ∧ (fieldKK w).toNat ∉ [0x9E, 0xA1]) ∨
    ((opGroup w).toNat = 0xF ∧
      (fieldKK w).toNat ∉ [0x07, 0x0A, 0x15, 0x18, 0x1E, 0x29, 0x33, 0x55, 0x65]) := by
  unfold decodeWord
  split
  case h_1 hg => simp [decodeGroup0_eq_none_iff, hg]
  case h_6 hg | h_10 hg => simp [whenZero_eq_none_iff, hg]
  case h_9 hg => simp [decodeGroup8_eq_none_iff, hg]
  case h_15 hg => simp [decodeGroupE_eq_none_iff, hg]
  case h_16 =>
    have hlt := (opGroup w).isLt
    have hg : (opGroup w).toNat = 15 := by grind
    simp [decodeGroupF_eq_none_iff, hg]
  all_goals
    rename_i hg
    simp [hg]

/-- Settles O58: the fields of a word are the quotient and the remainders of its number. -/
theorem illegalWordsAreExactlyThoseListed : Obligations.IllegalWordsAreExactlyThoseListed := by
  intro w
  rw [← toNat_opGroup, ← toNat_fieldN, ← toNat_fieldKK]
  exact decodeWord_eq_none_iff w

/-! ### The decoder and the opcode table (40_fetch_decode_execute.md R116) -/

/-- Every instruction's word matches a row, as Laws/PerInstr.lean shows constructor by constructor. -/
theorem legalWord_encode (i : Instr) : legalWord (encode i) = true := by
  cases i with
  | cls => exact Laws.LegalEncoding.cls
  | ret => exact Laws.LegalEncoding.ret
  | jp nnn => exact Laws.LegalEncoding.jp nnn
  | call nnn => exact Laws.LegalEncoding.call nnn
  | seImm x kk => exact Laws.LegalEncoding.seImm x kk
  | sneImm x kk => exact Laws.LegalEncoding.sneImm x kk
  | seReg x y => exact Laws.LegalEncoding.seReg x y
  | ldImm x kk => exact Laws.LegalEncoding.ldImm x kk
  | addImm x kk => exact Laws.LegalEncoding.addImm x kk
  | ldReg x y => exact Laws.LegalEncoding.ldReg x y
  | orReg x y => exact Laws.LegalEncoding.orReg x y
  | andReg x y => exact Laws.LegalEncoding.andReg x y
  | xorReg x y => exact Laws.LegalEncoding.xorReg x y
  | addReg x y => exact Laws.LegalEncoding.addReg x y
  | subReg x y => exact Laws.LegalEncoding.subReg x y
  | shr x y => exact Laws.LegalEncoding.shr x y
  | subnReg x y => exact Laws.LegalEncoding.subnReg x y
  | shl x y => exact Laws.LegalEncoding.shl x y
  | sneReg x y => exact Laws.LegalEncoding.sneReg x y
  | ldI nnn => exact Laws.LegalEncoding.ldI nnn
  | jpV0 nnn => exact Laws.LegalEncoding.jpV0 nnn
  | rnd x kk => exact Laws.LegalEncoding.rnd x kk
  | drw x y n => exact Laws.LegalEncoding.drw x y n
  | skp x => exact Laws.LegalEncoding.skp x
  | sknp x => exact Laws.LegalEncoding.sknp x
  | ldVxDT x => exact Laws.LegalEncoding.ldVxDT x
  | ldVxK x => exact Laws.LegalEncoding.ldVxK x
  | ldDTVx x => exact Laws.LegalEncoding.ldDTVx x
  | ldSTVx x => exact Laws.LegalEncoding.ldSTVx x
  | addI x => exact Laws.LegalEncoding.addI x
  | ldF x => exact Laws.LegalEncoding.ldF x
  | ldB x => exact Laws.LegalEncoding.ldB x
  | storeRegs x => exact Laws.LegalEncoding.storeRegs x
  | loadRegs x => exact Laws.LegalEncoding.loadRegs x

theorem legalWord_iff (w : Word) : legalWord w = true ↔ ∃ r ∈ opcodeRows, w &&& r.mask = r.pattern := by
  simp [legalWord, OpcodeRow.hits]

theorem opGroup_and (w m : Word) : opGroup (w &&& m) = opGroup w &&& opGroup m := by
  ext j hj
  simp [opGroup]

theorem fieldN_and (w m : Word) : fieldN (w &&& m) = fieldN w &&& fieldN m := by
  ext j hj
  simp [fieldN]

theorem fieldKK_and (w m : Word) : fieldKK (w &&& m) = fieldKK w &&& fieldKK m := by
  ext j hj
  simp [fieldKK]

theorem fieldN_eq_of_and {w m p : Word} (hm : fieldN m = BitVec.allOnes 4) (hw : w &&& m = p) : fieldN w = fieldN p := by
  rw [← hw, fieldN_and, hm, BitVec.and_allOnes]

theorem opGroup_eq_of_and {w m p : Word} (hm : opGroup m = BitVec.allOnes 4) (hw : w &&& m = p) :
    opGroup w = opGroup p := by
  rw [← hw, opGroup_and, hm, BitVec.and_allOnes]

theorem fieldKK_eq_of_and {w m p : Word} (hm : fieldKK m = BitVec.allOnes 8) (hw : w &&& m = p) :
    fieldKK w = fieldKK p := by
  rw [← hw, fieldKK_and, hm, BitVec.and_allOnes]

/-- A mask covers the group and the selector that the group is decoded on (R86 to R90). -/
def MaskCoversSelector (g : Nibble) (m : Word) : Prop :=
  opGroup m = BitVec.allOnes 4 ∧ (g = 0 → m = BitVec.allOnes 16) ∧
  (g = 0x5 ∨ g = 0x8 ∨ g = 0x9 → fieldN m = BitVec.allOnes 4) ∧ (g = 0xE ∨ g = 0xF → fieldKK m = BitVec.allOnes 8)

/-- Every row's mask covers the selector of its group, and its pattern is itself a legal word. -/
theorem opcodeRows_cover_selectors :
    ∀ r ∈ opcodeRows, MaskCoversSelector (opGroup r.pattern) r.mask ∧ decodeWord r.pattern ≠ none := by
  unfold MaskCoversSelector
  decide

/-- Two words that agree under a mask covering the selector are legal alike. -/
theorem decodeWord_eq_none_congr {w m p : Word} (hm : MaskCoversSelector (opGroup p) m) (hw : w &&& m = p)
    (h : decodeWord w = none) : decodeWord p = none := by
  obtain ⟨hg, h0, hn, hkk⟩ := hm
  have hgroup : opGroup w = opGroup p := opGroup_eq_of_and hg hw
  rw [decodeWord_eq_none_iff, hgroup] at h
  rw [decodeWord_eq_none_iff]
  rcases h with ⟨h, hne⟩ | ⟨h, hne⟩ | ⟨h, hne⟩ | ⟨h, hne⟩ | ⟨h, hne⟩ | ⟨h, hne⟩
  · have : w = p := by rw [← hw, h0 (BitVec.eq_of_toNat_eq h), BitVec.and_allOnes]
    grind
  · have := fieldN_eq_of_and (hn (.inl (BitVec.eq_of_toNat_eq h))) hw
    grind
  · have := fieldN_eq_of_and (hn (.inr (.inl (BitVec.eq_of_toNat_eq h)))) hw
    grind
  · have := fieldN_eq_of_and (hn (.inr (.inr (BitVec.eq_of_toNat_eq h)))) hw
    grind
  · have := fieldKK_eq_of_and (hkk (.inl (BitVec.eq_of_toNat_eq h))) hw
    grind
  · have := fieldKK_eq_of_and (hkk (.inr (BitVec.eq_of_toNat_eq h))) hw
    grind

/-- Settles O57: a decoded word is an encoding, which matches a row; a row's words are legal like its pattern. -/
theorem decoderAgreesWithTheOpcodeTable : Obligations.DecoderAgreesWithTheOpcodeTable := by
  intro w
  rw [← legalWord_iff]
  constructor
  · intro h
    obtain ⟨i, hi⟩ := Option.isSome_iff_exists.mp h
    rw [← encode_of_decodeWord hi]
    exact legalWord_encode i
  · intro h
    obtain ⟨r, hr, hw⟩ := (legalWord_iff w).mp h
    obtain ⟨hm, hp⟩ := opcodeRows_cover_selectors r hr
    exact Option.isSome_iff_ne_none.mpr fun hnone => hp (decodeWord_eq_none_congr hm hw hnone)

/-- Settles O59: the patterns of two rows already differ where both masks look. -/
theorem opcodeRowsNeverOverlap : Obligations.OpcodeRowsNeverOverlap := by
  have hdiffer : opcodeRows.Pairwise fun r q => r.pattern &&& q.mask ≠ q.pattern &&& r.mask := by decide
  refine hdiffer.imp fun {r q} hne w ⟨hr, hq⟩ => hne ?_
  rw [← hr, ← hq, BitVec.and_assoc, BitVec.and_assoc, BitVec.and_comm r.mask]

/-- Settles O60: each of the 26 words is decoded by evaluation. -/
theorem sampleWordsDecodeAsListed : Obligations.SampleWordsDecodeAsListed := by
  unfold Obligations.SampleWordsDecodeAsListed
  decide

end Sys2Proof
end

section
/-! Arithmetic, shifts, bit operations and random (42_alu.md R152 to R171). How frames compose comes first, then the frame
of each operation these instructions are made of, then the exact results as bytes. -/

namespace Sys2Proof.Machine

open Sys2Proof Sys2Proof.Safety

/-! ### Frames compose -/

theorem keeps_trans {p : Part} {s t u : State} (hst : Keeps p s t) (htu : Keeps p t u) : Keeps p s u := by
  cases p with
  | stack | status => exact ⟨htu.1.trans hst.1, htu.2.trans hst.2⟩
  | regs | memory => exact fun a => (htu a).trans (hst a)
  | display => exact fun c r => (htu c r).trans (hst c r)
  | index | pc | delay | sound | keys | font | draws => exact Eq.trans htu hst

theorem keepsAllBut_trans {ps : List Part} {s t u : State} (hst : KeepsAllBut ps s t) (htu : KeepsAllBut ps t u) :
    KeepsAllBut ps s u :=
  fun p hp => keeps_trans (hst p hp) (htu p hp)

theorem keepsAllBut_mono {ps qs : List Part} {s t : State} (hsub : ps ⊆ qs) (h : KeepsAllBut ps s t) :
    KeepsAllBut qs s t :=
  fun p hp => h p fun hps => hp (hsub hps)

/-! ### Frames of the operations -/

theorem State.setResult_keepsAllBut_regs (s : State) (x : Nibble) (result flag : Byte) :
    KeepsAllBut [.regs] s (s.setResult x result flag) :=
  keepsAllBut_trans (s.setV_keepsAllBut_regs x result) ((s.setV x result).setV_keepsAllBut_regs 0xF flag)

@[simp] theorem State.pixel_countDraw (s : State) (c r : Nat) : s.countDraw.pixel c r = s.pixel c r := rfl

theorem State.countDraw_keepsAllBut_draws (s : State) : KeepsAllBut [.draws] s s.countDraw := by
  intro p hp
  cases p with
  | draws => simp at hp
  | regs | index | pc | stack | delay | sound | memory | display | keys | status | font => simp [Keeps]

/-! ### Exact results cut to a byte (42_alu.md R160) -/

theorem trunc8_exactSum (a b : Byte) : trunc8 (exactSum a b) = a + b := by
  apply BitVec.eq_of_toNat_eq
  simp [trunc8, exactSum]

theorem carryFlag_eq (a b : Byte) : carryFlag a b = if a.toNat + b.toNat > 255 then 1 else 0 := by
  simp [carryFlag, flagByte, exactSum]

theorem trunc8_borrowedDiff (a b : Byte) : trunc8 (borrowedDiff a b) = a - b := by
  have ha := a.isLt
  have hb := b.isLt
  apply BitVec.eq_of_toNat_eq
  simp only [trunc8, borrowedDiff, BitVec.toNat_ofNat, BitVec.toNat_sub]
  omega

theorem noBorrowFlag_eq (a b : Byte) : noBorrowFlag a b = if b.toNat ≤ a.toNat then 1 else 0 := by
  simp [noBorrowFlag, flagByte]

theorem ushiftRight_one_eq (b : Byte) : b >>> 1 = BitVec.ofNat 8 (b.toNat / 2) := by
  apply BitVec.eq_of_toNat_eq
  have := b.isLt
  simp [Nat.shiftRight_eq_div_pow]
  omega

theorem shiftLeft_one_eq (b : Byte) : b <<< 1 = BitVec.ofNat 8 (2 * b.toNat) := by
  apply BitVec.eq_of_toNat_eq
  simp [Nat.shiftLeft_eq, Nat.mul_comm]

theorem flagByte_eq_ofNat_mod_two (n : Nat) : flagByte (n.testBit 0) = BitVec.ofNat 8 (n % 2) := by
  rcases Nat.mod_two_eq_zero_or_one n with h | h <;> simp [flagByte, h]

theorem lowBitFlag_eq (b : Byte) : lowBitFlag b = BitVec.ofNat 8 (b.toNat % 2) :=
  flagByte_eq_ofNat_mod_two b.toNat

theorem highBitFlag_eq (b : Byte) : highBitFlag b = BitVec.ofNat 8 (b.toNat / 128) := by
  have := b.isLt
  have h : b.getLsbD 7 = (b.toNat / 128).testBit 0 := by simp [BitVec.getLsbD, Nat.testBit_div_two_pow (n := 7)] 
  rw [highBitFlag, h, flagByte_eq_ofNat_mod_two, Nat.mod_eq_of_lt (by omega)]

/-! ### The instructions with a flag: a result, then the flag (R121) -/

/-- What an instruction does that writes a result to Vx and then a flag to VF. -/
theorem setResult_effect {s : State} {r : Result} {x : Nibble} {result flag a f : Byte}
    (h : r = .next (s.setResult x result flag)) (ha : result = a) (hf : flag = f) :
    ∃ t, r = .next t ∧
      (∀ q : Nibble, t.getV q = if q = 0xF then f else if q = x then a else s.getV q) ∧ KeepsAllBut [.regs] s t := by
  subst ha hf
  exact ⟨_, h, fun q => s.getV_setResult x q result flag, s.setResult_keepsAllBut_regs x result flag⟩

/-- Settles O2: the exact sum and its carry, written by `setResult`. -/
theorem addImmediateWritesSumThenCarry : Obligations.AddImmediateWritesSumThenCarry := by
  intro s x kk
  exact ⟨decodeWord_encode (.addImm x kk), setResult_effect rfl (trunc8_exactSum _ _) (carryFlag_eq _ _)⟩

/-- Settles O3: the exact sum and its carry, written by `setResult`. -/
theorem addRegisterWritesSumThenCarry : Obligations.AddRegisterWritesSumThenCarry := by
  intro s x y
  exact ⟨decodeWord_encode (.addReg x y), setResult_effect rfl (trunc8_exactSum _ _) (carryFlag_eq _ _)⟩

/-- Settles O4: the difference with 256 lent, and the flag that no loan was needed. -/
theorem subtractWritesDifferenceThenNoBorrow : Obligations.SubtractWritesDifferenceThenNoBorrow := by
  intro s x y
  refine ⟨decodeWord_encode (.subReg x y), decodeWord_encode (.subnReg x y), ?_, ?_⟩
  · exact setResult_effect rfl (trunc8_borrowedDiff _ _) (noBorrowFlag_eq _ _)
  · exact setResult_effect rfl (trunc8_borrowedDiff _ _) (noBorrowFlag_eq _ _)

/-- Settles O5: the shift as a division, its lost bit as the remainder. -/
theorem shiftRightHalvesVyAndFlagsItsLowBit : Obligations.ShiftRightHalvesVyAndFlagsItsLowBit := by
  intro s x y
  exact ⟨decodeWord_encode (.shr x y), setResult_effect rfl (ushiftRight_one_eq _) (lowBitFlag_eq _)⟩

/-- Settles O6: the shift as a product, its lost bit as the quotient. -/
theorem shiftLeftDoublesVyAndFlagsItsHighBit : Obligations.ShiftLeftDoublesVyAndFlagsItsHighBit := by
  intro s x y
  exact ⟨decodeWord_encode (.shl x y), setResult_effect rfl (shiftLeft_one_eq _) (highBitFlag_eq _)⟩

/-! ### The instructions that write Vx alone -/

/-- A register reads as the value just written to it. -/
theorem State.getV_setV_same (s : State) (x : Nibble) (val : Byte) : (s.setV x val).getV x = val := by
  simp [State.getV_setV]

theorem State.getV_setV_of_ne (s : State) {x r : Nibble} (h : r ≠ x) (val : Byte) :
    (s.setV x val).getV r = s.getV r := by
  simp [State.getV_setV, h]

/-- What an instruction does that writes a value with known bits to Vx. -/
theorem setV_bitwise_effect {s : State} {r : Result} {x : Nibble} {val : Byte} {bit : Nat → Bool}
    (h : r = .next (s.setV x val)) (hbit : ∀ j, val.getLsbD j = bit j) :
    ∃ t, r = .next t ∧ (∀ j, j < 8 → (t.getV x).getLsbD j = bit j) ∧
      (∀ q : Nibble, q ≠ x → t.getV q = s.getV q) ∧ KeepsAllBut [.regs] s t := by
  refine ⟨_, h, fun j _ => ?_, fun q hq => s.getV_setV_of_ne hq val, s.setV_keepsAllBut_regs x val⟩
  rw [s.getV_setV_same, hbit]

/-- Settles O7: each operation acts bit by bit. -/
theorem bitwiseOpsWriteOnlyVx : Obligations.BitwiseOpsWriteOnlyVx := by
  intro s x y
  refine ⟨decodeWord_encode (.orReg x y), decodeWord_encode (.andReg x y), decodeWord_encode (.xorReg x y), ?_, ?_, ?_⟩
  · exact setV_bitwise_effect rfl fun j => BitVec.getLsbD_or
  · exact setV_bitwise_effect rfl fun j => BitVec.getLsbD_and
  · exact setV_bitwise_effect rfl fun j => BitVec.getLsbD_xor

/-- `RND Vx, kk` (R171). -/
theorem exec_rnd (x : Nibble) (kk : Byte) (s : State) :
    exec (.rnd x kk) s = .next (s.countDraw.setV x (Config.freeByte s.draws &&& kk)) := rfl

/-- Settles O8: a counted draw, then one register write of the masked byte. -/
theorem randomWritesMaskedFreshByte : Obligations.RandomWritesMaskedFreshByte := by
  intro s x kk
  have hVx := s.countDraw.getV_setV_same x (Config.freeByte s.draws &&& kk)
  refine ⟨decodeWord_encode (.rnd x kk), _, exec_rnd x kk s, hVx, fun j hj => ?_,
    fun r hr => s.countDraw.getV_setV_of_ne hr _, rfl, ?_⟩
  · rw [hVx, BitVec.getLsbD_and, hj, Bool.and_false]
  · exact keepsAllBut_trans (keepsAllBut_mono (by simp) s.countDraw_keepsAllBut_draws)
      (keepsAllBut_mono (by simp) (s.countDraw.setV_keepsAllBut_regs x _))

end Sys2Proof.Machine
end

section
/-! Control transfer through the stack, a register or a comparison (41_control_transfer.md R131 to R140), and the key skips
(45_keypad_timers.md R217, R218). The frames of a push and a pop come first. -/

namespace Sys2Proof.Machine

open Sys2Proof Sys2Proof.Safety

/-! ### Frames and diagnostics of the stack operations -/

/-- Another call stack. -/
def withStack (sp : Nat) (stack : Vector Word 16) (s : State) : State := { s with sp := sp, stack := stack }

/-- Replacing the stack and its pointer keeps every other part of the state. -/
theorem withStack_keepsAllBut_stack (s : State) (sp : Nat) (stack : Vector Word 16) :
    KeepsAllBut [.stack] s (withStack sp stack s) := by
  intro p hp
  cases p with
  | stack => simp at hp
  | index | pc | delay | sound | keys | font | draws => rfl
  | status => exact ⟨rfl, rfl⟩
  | regs | memory => exact fun _ => rfl
  | display => exact fun _ _ => rfl

theorem State.push_keepsAllBut_stack (s : State) (a : Word) : KeepsAllBut [.stack] s (s.push a) := by
  rw [s.push_eq]
  exact withStack_keepsAllBut_stack s _ _

theorem State.pop_keepsAllBut_stack (s : State) : KeepsAllBut [.stack] s s.pop := by
  rw [s.pop_eq]
  exact withStack_keepsAllBut_stack s _ s.stack

/-- A stack operation and then a write of pc. -/
theorem setPc_after_keepsAllBut {s u : State} (h : KeepsAllBut [.stack] s u) (target : Word) :
    KeepsAllBut [.stack, .pc] s (u.setPc target) :=
  keepsAllBut_trans (keepsAllBut_mono (by simp) h) (keepsAllBut_mono (by simp) (u.setPc_keepsAllBut_pc target))

theorem State.pushDiagnostic_eq (s : State) :
    s.pushDiagnostic = if s.sp = 0 then some .stackOverflow else none := by
  unfold State.pushDiagnostic
  rw [clampSp_eq_min]
  by_cases h : s.sp = 0
  · simp [h]
  · rw [if_neg h, if_neg (by omega)]

theorem State.popDiagnostic_eq (s : State) :
    s.popDiagnostic = if s.sp < 16 then none else some .stackUnderflow := by
  unfold State.popDiagnostic Config.stackCap
  rw [clampSp_eq_min]
  by_cases h : s.sp < 16
  · rw [if_pos h, if_pos (by omega)]
  · rw [if_neg h, if_neg (by omega)]

/-- The popped address: the entry at the pointer, or 0 (R132). -/
theorem State.popValue_eq (s : State) : s.popValue = if h : s.sp < 16 then s.stack[s.sp] else 0 := by
  split
  next h => exact s.popValue_of_lt h
  next h => exact s.popValue_of_ge (by omega)

theorem State.pop_sp (s : State) : s.pop.sp = min (s.sp + 1) 16 := by rw [s.pop_eq]

theorem State.pop_stack (s : State) : s.pop.stack = s.stack := by rw [s.pop_eq]

/-- A push on a full stack leaves every entry as it was (R131). -/
theorem State.push_stack_of_full (s : State) (a : Word) (h : s.sp = 0) : (s.push a).stack = s.stack := by
  apply Vector.ext
  intro k hk
  have := s.push_entry a ⟨k, hk⟩
  simpa [h] using this

/-! ### CALL and RET -/

/-- `CALL nnn` (R135). -/
theorem exec_call (nnn : Addr12) (s : State) :
    exec (.call nnn) s = .next ((s.push s.pc).setPc (addrWord nnn)) := rfl

/-- `RET` (R133). -/
theorem exec_ret (s : State) : exec .ret s = .next (s.pop.setPc s.popValue) := rfl

/-- Settles O11: one push of pc, then one write of pc. -/
theorem callPushesReturnAddressOrReportsOverflow : Obligations.CallPushesReturnAddressOrReportsOverflow := by
  intro s nnn
  exact ⟨_, exec_call nnn s, s.push_sp s.pc, s.push_entry s.pc, s.pushDiagnostic_eq,
    setPc_after_keepsAllBut (s.push_keepsAllBut_stack s.pc) _⟩

/-- Settles O12: the write of pc does not depend on the push, and a push on a full stack leaves the stack. -/
theorem callTakesTheJumpOnEveryStack : Obligations.CallTakesTheJumpOnEveryStack := by
  intro s nnn
  refine ⟨decodeWord_encode (.call nnn), _, exec_call nnn s, toNat_addrWord nnn, fun h => ⟨?_, ?_⟩⟩
  · rw [State.setPc_sp, s.push_sp, h]
    rfl
  · exact s.push_stack_of_full s.pc h

/-- Settles O13: one pop, then one write of pc. -/
theorem returnPopsOrReportsUnderflow : Obligations.ReturnPopsOrReportsUnderflow := by
  refine ⟨decodeWord_encode .ret, fun s => ?_⟩
  exact ⟨_, exec_ret s, s.popValue_eq, s.pop_sp, s.pop_stack, s.popDiagnostic_eq,
    setPc_after_keepsAllBut s.pop_keepsAllBut_stack _⟩

/-- Settles O14: the pop reads the entry that the push wrote, and moves the pointer back. -/
theorem callThenReturnRoundTrip : Obligations.CallThenReturnRoundTrip := by
  intro s t m u nnn hpos hle hcall hsp hstack hret
  cases hcall
  cases hret
  have hmsp : m.sp = s.sp - 1 := by
    rw [hsp, State.setPc_sp, s.push_sp, Nat.min_eq_left hle]
  have hlt : m.sp < 16 := by omega
  constructor
  · have hentry := s.push_entry s.pc ⟨m.sp, hlt⟩
    rw [if_pos (by simp only; omega)] at hentry
    rw [State.setPc_pc, m.popValue_of_lt hlt]
    simpa [hstack] using hentry
  · rw [State.setPc_sp, m.pop_sp]
    omega

/-! ### Jump with offset and the skips -/

/-- `JP V0, nnn` (R140). -/
theorem exec_jpV0 (nnn : Addr12) (s : State) : exec (.jpV0 nnn) s = .next (s.setPc (offsetTarget nnn (s.getV 0))) := rfl

/-- The offset target cannot wrap: a 12-bit address plus a byte fits 16 bits. -/
theorem toNat_offsetTarget (nnn : Addr12) (a : Byte) : (offsetTarget nnn a).toNat = nnn.toNat + a.toNat := by
  have hn := nnn.isLt
  have ha := a.isLt
  rw [offsetTarget, BitVec.toNat_add, toNat_addrWord, byteWord, BitVec.toNat_setWidth_of_le (by decide)]
  omega

/-- `SE Vx, Vy` (R138). -/
theorem exec_seReg (x y : Nibble) (s : State) :
    exec (.seReg x y) s = .next (s.setPc (if s.getV x = s.getV y then s.pc + 2 else s.pc)) := by
  simp [exec, execSeReg, State.skipIf_eq]

/-- `SNE Vx, Vy` (R139). -/
theorem exec_sneReg (x y : Nibble) (s : State) :
    exec (.sneReg x y) s = .next (s.setPc (if s.getV x = s.getV y then s.pc else s.pc + 2)) := by
  simp [exec, execSneReg, State.skipIf_eq]

/-- `SKP Vx` (45_keypad_timers.md R217). -/
theorem exec_skp (x : Nibble) (s : State) :
    exec (.skp x) s = .next (s.setPc (if s.keyDown (keyOf (s.getV x)) = true then s.pc + 2 else s.pc)) := by
  simp [exec, execSkp, State.skipIf_eq]

/-- `SKNP Vx` (45_keypad_timers.md R218). -/
theorem exec_sknp (x : Nibble) (s : State) :
    exec (.sknp x) s = .next (s.setPc (if s.keyDown (keyOf (s.getV x)) = true then s.pc else s.pc + 2)) := by
  cases h : s.keyDown (keyOf (s.getV x)) <;> simp [exec, execSknp, State.skipIf_eq, h]

theorem toNat_lowNibble (a : Byte) : (lowNibble a).toNat = a.toNat % 16 := by
  simp [lowNibble]

/-- The key a register names is the one of its low nibble (45_keypad_timers.md R216). -/
theorem State.keyDown_keyOf (s : State) (a : Byte) :
    s.keyDown (keyOf a) = s.key[a.toNat % 16]'(Nat.mod_lt _ (Nat.zero_lt_succ 15)) := by
  simp only [State.keyDown, keyOf, toNat_lowNibble]

/-- Settles O10: the jump is one pc write, to a sum that does not wrap. -/
theorem jumpWithOffsetAddsV0 : Obligations.JumpWithOffsetAddsV0 := by
  intro s nnn
  exact ⟨decodeWord_encode (.jpV0 nnn), _, exec_jpV0 nnn s, toNat_offsetTarget nnn (s.getV 0), s.setPc_keepsAllBut_pc _⟩

/-- Settles O16: either skip is one pc write, whose value depends on the comparison alone. -/
theorem registerSkipsCompareVxWithVy : Obligations.RegisterSkipsCompareVxWithVy := by
  intro s x y
  refine ⟨decodeWord_encode (.seReg x y), decodeWord_encode (.sneReg x y), ?_, ?_⟩
  · exact ⟨_, exec_seReg x y s, s.setPc_pc _, s.setPc_keepsAllBut_pc _⟩
  · exact ⟨_, exec_sneReg x y s, s.setPc_pc _, s.setPc_keepsAllBut_pc _⟩

/-- Settles O27: either skip is one pc write, whose value depends on the key named by the low nibble. -/
theorem keySkipsTestTheKeyNamedByVx : Obligations.KeySkipsTestTheKeyNamedByVx := by
  intro s x
  rw [← s.keyDown_keyOf]
  refine ⟨decodeWord_encode (.skp x), decodeWord_encode (.sknp x), ?_, ?_⟩
  · exact ⟨_, exec_skp x s, s.setPc_pc _, s.setPc_keepsAllBut_pc _⟩
  · exact ⟨_, exec_sknp x s, s.setPc_pc _, s.setPc_keepsAllBut_pc _⟩

end Sys2Proof.Machine
end

section
/-! The index register and the memory transfers (43_index_memory.md R181 to R185). The frames of a store and of a block load
come first. -/

namespace Sys2Proof.Machine

open Sys2Proof Sys2Proof.Safety

/-! ### Frames -/

@[simp] theorem State.pixel_memWriteBytes (s : State) (a : Nat) (bytes : List Byte) (c r : Nat) :
    (s.memWriteBytes a bytes).pixel c r = s.pixel c r := rfl

/-- A store keeps every part of the state but memory. -/
theorem State.memWriteBytes_keepsAllBut_memory (s : State) (a : Nat) (bytes : List Byte) :
    KeepsAllBut [.memory] s (s.memWriteBytes a bytes) := by
  intro p hp
  cases p with
  | memory => simp at hp
  | regs | index | pc | stack | delay | sound | display | keys | status | font | draws => simp [Keeps]

/-- A block load keeps every part of the state but the registers. -/
theorem State.loadV_keepsAllBut_regs (s : State) (a count : Nat) : KeepsAllBut [.regs] s (s.loadV a count) := by
  induction count with
  | zero => exact keepsAllBut_refl _ s
  | succ k ih => exact keepsAllBut_trans ih (State.setV_keepsAllBut_regs _ _ _)

/-! ### The index register -/

/-- `ADD I, Vx` (R181). -/
theorem exec_addI (x : Nibble) (s : State) : exec (.addI x) s = .next (s.setI (s.i + byteWord (s.getV x))) := rfl

/-- `LD F, Vx` (R182). -/
theorem exec_ldF (x : Nibble) (s : State) : exec (.ldF x) s = .next (s.setI (glyphAddr (s.getV x))) := rfl

theorem toNat_glyphAddr (a : Byte) : (glyphAddr a).toNat = 5 * (a.toNat % 16) := by
  rw [glyphAddr, BitVec.toNat_ofNat, toNat_lowNibble]
  unfold Config.fontBase Config.glyphBytes
  omega

/-- Settles O18: one index write of a 16-bit sum. -/
theorem addIndexWrapsAtSixteenBits : Obligations.AddIndexWrapsAtSixteenBits := by
  intro s x
  refine ⟨decodeWord_encode (.addI x), _, exec_addI x s, ?_, s.setI_keepsAllBut_index _⟩
  rw [State.setI_i, BitVec.toNat_add, byteWord, BitVec.toNat_setWidth_of_le (by decide)]

/-- Settles O19: one index write of the glyph's address. -/
theorem fontAddressIsFiveTimesTheLowNibble : Obligations.FontAddressIsFiveTimesTheLowNibble := by
  intro s x
  exact ⟨decodeWord_encode (.ldF x), _, exec_ldF x s, toNat_glyphAddr (s.getV x), s.setI_keepsAllBut_index _⟩

/-! ### Stores -/

/-- `LD B, Vx` (R183). -/
theorem exec_ldB (x : Nibble) (s : State) :
    exec (.ldB x) s = .next (s.memWriteBytes s.i.toNat (bcdDigits (s.getV x))) := rfl

/-- `LD [I], Vx` (R184). -/
theorem exec_storeRegs (x : Nibble) (s : State) :
    exec (.storeRegs x) s = .next (s.memWriteBytes s.i.toNat (s.firstV (x.toNat + 1))) := rfl

/-- A store at I, of at most 16 bytes, puts byte k at the address of the k-th data access (R186). -/
theorem State.byteAt_store_inside (s : State) (bytes : List Byte) (hl : bytes.length ≤ 16) (k : Nat)
    (hk : k < bytes.length) : (s.memWriteBytes s.i.toNat bytes).byteAt (xlate (s.dataAddr k)) = bytes[k] :=
  s.byteAt_memWriteBytes_inside s.i.toNat bytes (hl.trans (by decide)) k hk

/-- A store at I leaves every byte that none of its data accesses names. -/
theorem State.byteAt_store_outside (s : State) (bytes : List Byte) (b : Nat)
    (hb : ∀ k, k < bytes.length → b ≠ xlate (s.dataAddr k)) : (s.memWriteBytes s.i.toNat bytes).byteAt b = s.byteAt b :=
  s.byteAt_memWriteBytes_outside s.i.toNat bytes b hb

/-- Settles O20: a store of the three digits, each of which fits a byte. -/
theorem bcdStoresThreeDigitsAndNoOtherByte : Obligations.BcdStoresThreeDigitsAndNoOtherByte := by
  intro s x
  have hlen : (bcdDigits (s.getV x)).length = 3 := rfl
  have hv := (s.getV x).isLt
  have hdigit (k : Nat) (hk : k < 3) := s.byteAt_store_inside (bcdDigits (s.getV x)) (hlen.le.trans (by decide)) k hk
  refine ⟨decodeWord_encode (.ldB x), _, exec_ldB x s, ?_, ?_, ?_, fun a h0 h1 h2 => ?_,
    s.memWriteBytes_keepsAllBut_memory _ _⟩
  · rw [hdigit 0 (by decide)]
    simp [bcdDigits]
    omega
  · rw [hdigit 1 (by decide)]
    simp [bcdDigits]
    omega
  · rw [hdigit 2 (by decide)]
    simp [bcdDigits]
    omega
  · refine s.byteAt_store_outside _ a fun k hk => ?_
    rw [hlen] at hk
    interval_cases k
    · exact h0
    · exact h1
    · exact h2

/-- The byte that a block store of V0 to Vx leaves at the address of the k-th data access, k up to x. -/
theorem State.byteAt_storeRegs (s : State) (x k : Nibble) (hk : k.toNat ≤ x.toNat) :
    (s.memWriteBytes s.i.toNat (s.firstV (x.toNat + 1))).byteAt (xlate (s.dataAddr k.toNat)) = s.getV k := by
  have hx : x.toNat + 1 ≤ 16 := x.isLt
  have hlen := s.length_firstV (x.toNat + 1) hx
  rw [s.byteAt_store_inside _ (hlen.le.trans hx) k.toNat (by omega), s.getElem_firstV _ _ _ k.isLt]
  simp

/-- Settles O21: a store of the first registers in order. -/
theorem blockStoreWritesV0ToVxAndNoOtherByte : Obligations.BlockStoreWritesV0ToVxAndNoOtherByte := by
  intro s x
  refine ⟨decodeWord_encode (.storeRegs x), _, exec_storeRegs x s, fun k hk => s.byteAt_storeRegs x k hk,
    fun a ha => s.byteAt_store_outside _ a fun k hk => ha k ?_, s.memWriteBytes_keepsAllBut_memory _ _⟩
  rw [s.length_firstV _ x.isLt] at hk
  omega

/-- Settles O23: inside memory the two bytes at pc are the first two of the store. -/
theorem fetchSeesTheBlockStoreBeforeIt : Obligations.FetchSeesTheBlockStoreBeforeIt := by
  intro s t x hx hi hpc ht
  cases ht
  have haddr (k : Nat) (hk : k ≤ 1) : xlate (s.dataAddr k) = s.pc.toNat + k := by
    rw [xlate, State.dataAddr, hi, Nat.mod_eq_of_lt (by unfold Config.memSize; omega)]
  have h0 := s.byteAt_storeRegs x 0 (Nat.zero_le _)
  have h1 := s.byteAt_storeRegs x 1 hx
  rw [show (0 : Nibble).toNat = 0 from rfl, haddr 0 (by decide)] at h0
  rw [show (1 : Nibble).toNat = 1 from rfl, haddr 1 (by decide)] at h1
  exact congrArg₂ wordOfBytes h0 h1

/-! ### The block load -/

/-- `LD Vx, [I]` (R185). -/
theorem exec_loadRegs (x : Nibble) (s : State) : exec (.loadRegs x) s = .next (s.loadV s.i.toNat (x.toNat + 1)) := rfl

/-- Settles O22: a block load of the first registers. -/
theorem blockLoadReadsV0ToVx : Obligations.BlockLoadReadsV0ToVx := by
  intro s x
  refine ⟨decodeWord_encode (.loadRegs x), _, exec_loadRegs x s, fun r => ?_, s.loadV_keepsAllBut_regs _ _⟩
  rw [s.getV_loadV _ _ x.isLt, State.memRead, State.dataAddr]
  simp only [Nat.lt_succ_iff]

end Sys2Proof.Machine
end

section
/-! Drawing (44_display.md R202 to R204). A sprite is its rows, one after the other; rows of one sprite cover distinct
pixels, so each pixel is toggled at most once and a collision is found against the screen as it was. -/

namespace Sys2Proof.Machine

open Sys2Proof Sys2Proof.Safety

/-- Pixels are read with both coordinates wrapped. -/
theorem FrameBuffer.pixel_mod (fb : FrameBuffer) (c r : Nat) : fb.pixel (c % 64) (r % 32) = fb.pixel c r := by
  simp [FrameBuffer.pixel]

/-! ### One row -/

/-- The bit that a whole sprite row, drawn from column `cx` on, lays on a pixel, if any. -/
def rowCovers (cx line : Nat) (byte : Byte) (c r : Nat) : Bool :=
  decide ((c + (64 - cx % 64)) % 64 < 8 ∧ r % 32 = line % 32) && byte.getLsbD (7 - (c + (64 - cx % 64)) % 64)

theorem Drawing.pixel_wholeRow (d : Drawing) (cx line : Nat) (byte : Byte) (c r : Nat) :
    (d.row cx line byte 8).fb.pixel c r = xor (d.fb.pixel c r) (rowCovers cx line byte c r) :=
  d.pixel_row cx line byte 8 le_rfl c r

/-- A row collides when it covers a lit pixel. -/
theorem Drawing.collision_wholeRow (d : Drawing) (cx line : Nat) (byte : Byte) :
    (d.row cx line byte 8).collision = true ↔ d.collision = true ∨
      ∃ c r, c < 64 ∧ r < 32 ∧ d.fb.pixel c r = true ∧ rowCovers cx line byte c r = true := by
  rw [d.collision_row cx line byte 8 le_rfl]
  refine or_congr_right ⟨?_, ?_⟩
  · rintro ⟨b, hb, hbit, hlit⟩
    refine ⟨(cx + b) % 64, line % 32, Nat.mod_lt _ (by decide), Nat.mod_lt _ (by decide), ?_, ?_⟩
    · rw [FrameBuffer.pixel_mod, hlit]
    · have hcol : ((cx + b) % 64 + (64 - cx % 64)) % 64 = b := by omega
      simp [rowCovers, hcol, hb, hbit]
  · rintro ⟨c, r, hc, hr, hlit, hcov⟩
    simp only [rowCovers, Bool.and_eq_true, decide_eq_true_eq] at hcov
    obtain ⟨⟨hcol, hline⟩, hbit⟩ := hcov
    refine ⟨_, hcol, hbit, ?_⟩
    have hwrap : (cx + (c + (64 - cx % 64)) % 64) % 64 = c % 64 := by omega
    rw [← FrameBuffer.pixel_mod, hwrap, ← hline, FrameBuffer.pixel_mod, hlit]

/-! ### The rows of a sprite -/

/-- A sprite of one row more covers that row's pixels too. -/
theorem spriteCovers_succ (s : State) (cx cy k c r : Nat) (hk : k < 32) :
    spriteCovers s cx cy (k + 1) c r =
      (spriteCovers s cx cy k c r || rowCovers cx (cy + k) (s.memRead (s.dataAddr k)) c r) := by
  have hline : r % 32 = (cy + k) % 32 ↔ (r + (32 - cy % 32)) % 32 = k := by omega
  simp only [spriteCovers, rowCovers, hline]
  by_cases hr : (r + (32 - cy % 32)) % 32 = k
  · simp [hr]
  · have hlt : (r + (32 - cy % 32)) % 32 < k + 1 ↔ (r + (32 - cy % 32)) % 32 < k := by omega
    simp [hr, hlt]

/-- A further row covers no pixel that the rows above it cover. -/
theorem spriteCovers_eq_false_of_rowCovers {s : State} {cx cy k c r : Nat} {byte : Byte} (hk : k < 32)
    (h : rowCovers cx (cy + k) byte c r = true) : spriteCovers s cx cy k c r = false := by
  simp only [rowCovers, Bool.and_eq_true, decide_eq_true_eq] at h
  have hr : ¬ (r + (32 - cy % 32)) % 32 < k := by omega
  simp [spriteCovers, hr]

/-- A sprite XORs onto the pixels it covers (R202). -/
theorem Drawing.pixel_sprite (d : Drawing) (s : State) (cx cy count : Nat) (hc : count ≤ 32) (c r : Nat) :
    (d.sprite s cx cy count).fb.pixel c r = xor (d.fb.pixel c r) (spriteCovers s cx cy count c r) := by
  induction count with
  | zero => simp [Drawing.sprite, spriteCovers]
  | succ k ih =>
    rw [Drawing.sprite, Drawing.pixel_wholeRow, ih (by omega), spriteCovers_succ _ _ _ _ _ _ (by omega)]
    cases hrow : rowCovers cx (cy + k) (s.memRead (s.dataAddr k)) c r with
    | false => simp
    | true => simp [spriteCovers_eq_false_of_rowCovers (s := s) (by omega) hrow]

/-- A sprite collides when it covers a pixel lit before it was drawn (R202). -/
theorem Drawing.collision_sprite (d : Drawing) (s : State) (cx cy count : Nat) (hc : count ≤ 32) :
    (d.sprite s cx cy count).collision = true ↔ d.collision = true ∨
      ∃ c r, c < 64 ∧ r < 32 ∧ d.fb.pixel c r = true ∧ spriteCovers s cx cy count c r = true := by
  induction count with
  | zero => simp [Drawing.sprite, spriteCovers]
  | succ k ih =>
    rw [Drawing.sprite, Drawing.collision_wholeRow, ih (by omega)]
    simp only [d.pixel_sprite s cx cy k (by omega), spriteCovers_succ _ _ _ _ _ _ (show k < 32 by omega),
      Bool.or_eq_true]
    constructor
    · rintro ((h | ⟨c, r, hc, hr, hlit, hcov⟩) | ⟨c, r, hc, hr, hlit, hcov⟩)
      · exact .inl h
      · exact .inr ⟨c, r, hc, hr, hlit, .inl hcov⟩
      · rw [spriteCovers_eq_false_of_rowCovers (by omega) hcov, Bool.xor_false] at hlit
        exact .inr ⟨c, r, hc, hr, hlit, .inr hcov⟩
    · rintro (h | ⟨c, r, hc, hr, hlit, hcov | hcov⟩)
      · exact .inl (.inl h)
      · exact .inl (.inr ⟨c, r, hc, hr, hlit, hcov⟩)
      · refine .inr ⟨c, r, hc, hr, ?_, hcov⟩
        rw [spriteCovers_eq_false_of_rowCovers (by omega) hcov, Bool.xor_false, hlit]

/-! ### The instruction -/

/-- `DRW Vx, Vy, n` (R202). -/
theorem exec_drw (x y n : Nibble) (s : State) :
    exec (.drw x y n) s =
      .next ((s.setFb (s.draw x y n).fb).setFlag (flagByte (s.draw x y n).collision)) := rfl

theorem State.pixel_draw (s : State) (x y n : Nibble) (c r : Nat) :
    (s.draw x y n).fb.pixel c r =
      xor (s.pixel c r) (spriteCovers s (s.getV x).toNat (s.getV y).toNat n.toNat c r) :=
  Drawing.pixel_sprite _ _ _ _ _ (n.isLt.le.trans (by decide)) c r

theorem State.collision_draw (s : State) (x y n : Nibble) :
    (s.draw x y n).collision = true ↔ ∃ c r, c < 64 ∧ r < 32 ∧ s.pixel c r = true ∧
      spriteCovers s (s.getV x).toNat (s.getV y).toNat n.toNat c r = true := by
  refine (Drawing.collision_sprite _ s _ _ _ (n.isLt.le.trans (by decide))).trans ?_
  simp [State.pixel]

/-- What a draw leaves: the XOR of the sprite, the collision as the flag, and every register and byte that a second draw at
the same place reads. -/
theorem exec_drw_next {s t : State} {x y n : Nibble} (h : exec (.drw x y n) s = .next t) :
    (∀ c r : Nat, t.pixel c r =
      xor (s.pixel c r) (spriteCovers s (s.getV x).toNat (s.getV y).toNat n.toNat c r)) ∧
    t.getV 0xF = flagByte (s.draw x y n).collision ∧ (∀ q : Nibble, q ≠ 0xF → t.getV q = s.getV q) ∧
    (∀ cx cy m c r : Nat, spriteCovers t cx cy m c r = spriteCovers s cx cy m c r) := by
  cases h
  exact ⟨fun c r => s.pixel_draw x y n c r, State.getV_setV_same _ _ _, fun q hq => State.getV_setV_of_ne _ hq _,
    fun _ _ _ _ _ => rfl⟩

theorem flagByte_eq_one_iff (b : Bool) : flagByte b = 1 ↔ b = true := by
  cases b <;> decide

/-- Settles O25: the sprite's XOR on every pixel, and the collision as the flag. -/
theorem drawXorsSpriteAndFlagsCollision : Obligations.DrawXorsSpriteAndFlagsCollision := by
  intro s x y n
  obtain ⟨hpixel, hflag, hregs, -⟩ := exec_drw_next (exec_drw x y n s)
  refine ⟨decodeWord_encode (.drw x y n), _, exec_drw x y n s, fun c r _ _ => hpixel c r, ?_, hregs, ?_⟩
  · rw [hflag]
    cases hcol : (s.draw x y n).collision with
    | true => exact .inl ⟨rfl, (s.collision_draw x y n).mp hcol⟩
    | false =>
      refine .inr ⟨rfl, fun c r hc hr hlit => Bool.eq_false_iff.mpr fun hcov => ?_⟩
      exact Bool.false_ne_true (hcol.symm.trans ((s.collision_draw x y n).mpr ⟨c, r, hc, hr, hlit, hcov⟩))
  · exact keepsAllBut_trans (keepsAllBut_mono (by simp) (s.setFb_keepsAllBut_display _))
      (keepsAllBut_mono (by simp) (State.setV_keepsAllBut_regs _ _ _))

/-- Settles O26: the second draw covers the same pixels, so it XORs the first away and meets what the first lit. -/
theorem drawingTwiceRestoresTheScreen : Obligations.DrawingTwiceRestoresTheScreen := by
  intro s t u x y n hx hy ht hu
  obtain ⟨hpt, hft, hrt, hct⟩ := exec_drw_next ht
  obtain ⟨hpu, hfu, -, -⟩ := exec_drw_next hu
  rw [hrt x hx, hrt y hy] at hpu
  refine ⟨fun c r => ?_, fun hclear => ⟨?_, ?_⟩⟩
  · rw [hpu, hpt, hct, Bool.xor_assoc, Bool.xor_self, Bool.xor_false]
  · have hnone : ¬ (s.draw x y n).collision = true := by
      rw [s.collision_draw]
      simp [hclear]
    rw [hft, Bool.eq_false_iff.mpr hnone]
    rfl
  · rw [hfu, flagByte_eq_one_iff, t.collision_draw, hrt x hx, hrt y hy]
    simp only [hct, hpt, hclear, Bool.false_xor, and_self]

end Sys2Proof.Machine
end

section
/-! The STEP command (40_fetch_decode_execute.md R110 to R118). What it does in each of its four cases comes first: the gate
is closed, pc is out of bounds, the word is illegal, or an instruction runs. -/

namespace Sys2Proof.Machine

open Sys2Proof Sys2Proof.Safety

/-- Every instruction has a next state (R117). -/
theorem exec_eq_next (i : Instr) (s : State) : exec i s = .next (stateAfter (exec i s) s) := by
  cases i <;> rfl

/-! ### The gate and the bound as numbers -/

theorem State.isReady_eq_true_iff (s : State) : s.isReady = true ↔ s.running = true ∧ s.pendingKey = none := by
  simp [State.isReady]

theorem State.isReady_eq_false_iff (s : State) :
    s.isReady = false ↔ s.running = false ∨ s.pendingKey.isSome = true := by
  simp only [State.isReady, Bool.and_eq_false_iff, Option.isNone_eq_false_iff]

theorem State.fetchInBounds_eq_true_iff (s : State) : s.fetchInBounds = true ↔ s.pc.toNat ≤ 4094 := by
  rw [State.fetchInBounds, decide_eq_true_iff]
  unfold Config.memSize
  omega

theorem State.fetchInBounds_eq_false_iff (s : State) : s.fetchInBounds = false ↔ 4094 < s.pc.toNat := by
  rw [← Bool.not_eq_true, s.fetchInBounds_eq_true_iff, not_le]

/-! ### The four cases of STEP, in both views -/

theorem step_of_not_ready {s : State} (h : s.isReady = false) : step s = .next s ∧ stepCommand s = (.idle, s) := by
  simp [step, runCycle, stepCommand, h]

theorem step_of_out_of_bounds {s : State} (hr : s.isReady = true) (hb : s.fetchInBounds = false) :
    step s = .fault (.programCounterOutOfBounds s.pc) ∧
      stepCommand s = (.error (.programCounterOutOfBounds s.pc), s) := by
  simp [step, runCycle, stepCommand, hr, hb]

theorem step_of_illegal {s : State} (hr : s.isReady = true) (hb : s.fetchInBounds = true)
    (hd : decodeWord s.fetch16 = none) :
    step s = .fault (.unknownOpcode s.fetch16 s.pc) ∧
      stepCommand s = (.error (.unknownOpcode s.fetch16 s.pc), s.advance) := by
  simp [step, runCycle, stepCommand, hr, hb, hd]

theorem step_of_decoded {s : State} {i : Instr} (hr : s.isReady = true) (hb : s.fetchInBounds = true)
    (hd : decodeWord s.fetch16 = some i) :
    step s = exec i s.advance ∧
      stepCommand s = (.executed (diagnosticOf i s.advance), stateAfter (exec i s.advance) s) := by
  simp [step, runCycle, stepCommand, hr, hb, hd]

/-- Every state STEP can leave (R118): the same state, the advanced one after an illegal word, or the one an instruction
leaves. -/
theorem stepCommand_state (s : State) :
    (stepCommand s).2 = s ∨
      s.pc.toNat ≤ 4094 ∧ ((stepCommand s).2 = s.advance ∨ ∃ i, exec i s.advance = .next (stepCommand s).2) := by
  cases hr : s.isReady with
  | false => exact .inl (congrArg Prod.snd (step_of_not_ready hr).2)
  | true =>
    cases hb : s.fetchInBounds with
    | false => exact .inl (congrArg Prod.snd (step_of_out_of_bounds hr hb).2)
    | true =>
      refine .inr ⟨s.fetchInBounds_eq_true_iff.mp hb, ?_⟩
      cases hd : decodeWord s.fetch16 with
      | none => exact .inl (congrArg Prod.snd (step_of_illegal hr hb hd).2)
      | some i =>
        rw [(step_of_decoded hr hb hd).2, exec_eq_next i s.advance]
        exact .inr ⟨i, exec_eq_next i s.advance⟩

/-! ### The statements about STEP -/

/-- Settles O39: each of the 34 meanings answers a next state. -/
theorem everyInstructionCompletes : Obligations.EveryInstructionCompletes :=
  fun i s => ⟨_, exec_eq_next i s⟩

/-- Settles O34: the fourth case, with the fetched word written out. -/
theorem stepRunsTheDecodedInstruction : Obligations.StepRunsTheDecodedInstruction := by
  intro s i hrun hkey hpc hd
  obtain ⟨hstep, hcommand⟩ :=
    step_of_decoded (s.isReady_eq_true_iff.mpr ⟨hrun, hkey⟩) (s.fetchInBounds_eq_true_iff.mpr hpc) hd
  refine ⟨hstep, fun t ht => hcommand.trans ?_⟩
  rw [show exec i s.advance = .next t from ht]
  rfl

/-- Settles O35: the first case. -/
theorem closedGateStepIsIdle : Obligations.ClosedGateStepIsIdle :=
  fun s h => step_of_not_ready (s.isReady_eq_false_iff.mpr h)

/-- Settles O36: the second case. -/
theorem pcAbove4094RaisesOutOfBounds : Obligations.PcAbove4094RaisesOutOfBounds :=
  fun s hrun hkey hpc =>
    step_of_out_of_bounds (s.isReady_eq_true_iff.mpr ⟨hrun, hkey⟩) (s.fetchInBounds_eq_false_iff.mpr hpc)

/-- Settles O37: the third case. -/
theorem illegalWordRaisesUnknownOpcode : Obligations.IllegalWordRaisesUnknownOpcode :=
  fun s hrun hkey hpc hd =>
    step_of_illegal (s.isReady_eq_true_iff.mpr ⟨hrun, hkey⟩) (s.fetchInBounds_eq_true_iff.mpr hpc) hd

/-- Settles O38: in each of the four cases both views are known, and an execution has a next state. -/
theorem stepOutcomeAgreesWithStepCommand : Obligations.StepOutcomeAgreesWithStepCommand := by
  intro s
  cases hr : s.isReady with
  | false =>
    obtain ⟨hstep, hcommand⟩ := step_of_not_ready hr
    rw [hstep, hcommand]
  | true =>
    cases hb : s.fetchInBounds with
    | false =>
      obtain ⟨hstep, hcommand⟩ := step_of_out_of_bounds hr hb
      rw [hstep, hcommand]
    | true =>
      cases hd : decodeWord s.fetch16 with
      | none =>
        obtain ⟨hstep, hcommand⟩ := step_of_illegal hr hb hd
        rw [hstep, hcommand]
      | some i =>
        obtain ⟨hstep, hcommand⟩ := step_of_decoded hr hb hd
        rw [hstep, hcommand, exec_eq_next i s.advance]
        rfl

/-- Settles O41: the step runs the jump, which puts back the pc that the advance moved. -/
theorem selfJumpIsAFixedPoint : Obligations.SelfJumpIsAFixedPoint := by
  intro s nnn hrun hkey hle hpc hfetch
  have hd : decodeWord s.fetch16 = some (.jp nnn) := by rw [hfetch, decodeWord_packNNN_jp]
  obtain ⟨hstep, -⟩ := step_of_decoded (s.isReady_eq_true_iff.mpr ⟨hrun, hkey⟩)
    (s.fetchInBounds_eq_true_iff.mpr (hpc ▸ hle)) hd
  have hback : addrWord nnn = s.pc := BitVec.eq_of_toNat_eq ((toNat_addrWord nnn).trans hpc.symm)
  rw [hstep, exec_jp, hback]
  rfl

end Sys2Proof.Machine
end

section
/-! Timers, the key wait and the key commands (45_keypad_timers.md R215 to R227, 60_exceptions.md R255 to R260). -/

namespace Sys2Proof.Machine

open Sys2Proof Sys2Proof.Safety

/-! ### Frames -/

theorem State.setDT_keepsAllBut_delay (s : State) (a : Byte) : KeepsAllBut [.delay] s (s.setDT a) := by
  intro p hp
  cases p with
  | delay => simp at hp
  | regs | index | pc | stack | sound | memory | display | keys | status | font | draws => simp [Keeps]

theorem State.setST_keepsAllBut_sound (s : State) (a : Byte) : KeepsAllBut [.sound] s (s.setST a) := by
  intro p hp
  cases p with
  | sound => simp at hp
  | regs | index | pc | stack | delay | memory | display | keys | status | font | draws => simp [Keeps]

/-- Replacing running and pendingKey keeps every other part of the state. -/
theorem updateStatus_keepsAllBut_status (s : State) (pending : Option Nibble) (run : Bool) :
    KeepsAllBut [.status] s { s with pendingKey := pending, running := run } := by
  intro p hp
  cases p with
  | status => simp at hp
  | index | pc | delay | sound | keys | font | draws => rfl
  | stack => exact ⟨rfl, rfl⟩
  | regs | memory => exact fun _ => rfl
  | display => exact fun _ _ => rfl

theorem setKeysCommand_keepsAllBut_keys (s : State) (k : Vector Bool 16) : KeepsAllBut [.keys] s (setKeysCommand s k) := by
  intro p hp
  cases p with
  | keys => simp at hp
  | index | pc | delay | sound | font | draws => rfl
  | stack | status => exact ⟨rfl, rfl⟩
  | regs | memory => exact fun _ => rfl
  | display => exact fun _ _ => rfl

/-! ### The timer loads and the key wait -/

/-- `LD Vx, DT` (R225). -/
theorem exec_ldVxDT (x : Nibble) (s : State) : exec (.ldVxDT x) s = .next (s.setV x s.dt) := rfl

/-- `LD DT, Vx` (R226). -/
theorem exec_ldDTVx (x : Nibble) (s : State) : exec (.ldDTVx x) s = .next (s.setDT (s.getV x)) := rfl

/-- `LD ST, Vx` (R227). -/
theorem exec_ldSTVx (x : Nibble) (s : State) : exec (.ldSTVx x) s = .next (s.setST (s.getV x)) := rfl

/-- `LD Vx, K` (R219). -/
theorem exec_ldVxK (x : Nibble) (s : State) : exec (.ldVxK x) s = .next (s.awaitKey x) := rfl

/-- Settles O28: a register write and two timer writes. -/
theorem timerLoadsMoveOneByte : Obligations.TimerLoadsMoveOneByte := by
  intro s x
  refine ⟨decodeWord_encode (.ldVxDT x), decodeWord_encode (.ldDTVx x), decodeWord_encode (.ldSTVx x), ?_, ?_, ?_⟩
  · exact ⟨_, exec_ldVxDT x s, fun r => s.getV_setV x r s.dt, s.setV_keepsAllBut_regs x s.dt⟩
  · exact ⟨_, exec_ldDTVx x s, s.setDT_dt _, s.setDT_keepsAllBut_delay _⟩
  · exact ⟨_, exec_ldSTVx x s, s.setST_st _, s.setST_keepsAllBut_sound _⟩

/-- Settles O29: one write of the status. -/
theorem keyWaitChangesOnlyTheRunStatus : Obligations.KeyWaitChangesOnlyTheRunStatus := by
  intro s x
  exact ⟨decodeWord_encode (.ldVxK x), _, exec_ldVxK x s, s.awaitKey_pendingKey x, s.awaitKey_running x, rfl,
    updateStatus_keepsAllBut_status s (some x) false⟩

/-- A machine that does not run is left as it is by STEP and TICK (R111, R255). -/
theorem runCommand_step_or_tick_of_not_running {s : State} (h : s.running = false) {c : Command}
    (hc : c = .step ∨ c = .tick) : (runCommand c s).2 = s := by
  rcases hc with rfl | rfl
  · exact congrArg Prod.snd (step_of_not_ready (s.isReady_eq_false_iff.mpr (.inl h))).2
  · exact congrArg Prod.snd (runCommand_tick_of_not_running (by simp [h]))

/-- Without halting a run is its first command and then the others. -/
theorem runCommands_false_cons (c : Command) (cs : List Command) (s : State) :
    (runCommands false (c :: cs) s).2 = (runCommands false cs (runCommand c s).2).2 := rfl

theorem runCommands_of_not_running {s : State} (h : s.running = false) {cs : List Command}
    (hcs : ∀ c ∈ cs, c = .step ∨ c = .tick) : (runCommands false cs s).2 = s := by
  induction cs with
  | nil => rfl
  | cons c cs ih =>
    rw [runCommands_false_cons, runCommand_step_or_tick_of_not_running h (hcs c (by simp))]
    exact ih fun d hd => hcs d (by simp [hd])

/-- Settles O30: a waiting machine does not run, so no STEP and no TICK changes it. -/
theorem keyWaitSurvivesStepsAndTicks : Obligations.KeyWaitSurvivesStepsAndTicks := by
  intro s t x k cs ht hcs
  cases ht
  exact ⟨State.awaitKey_pendingKey _ x, runCommands_of_not_running (State.awaitKey_running _ x) hcs⟩

/-! ### The key commands -/

theorem runCommand_submitKey_of_none {s : State} (h : s.pendingKey = none) (id : Nibble) :
    runCommand (.submitKey id) s = (.done, s) := by
  simp [runCommand, submitKeyCommand, h]

theorem runCommand_submitKey_of_some {s : State} {x : Nibble} (h : s.pendingKey = some x) (id : Nibble) :
    runCommand (.submitKey id) s =
      (.done, { s.setV x (id.setWidth 8) with pendingKey := none, running := true }) := by
  simp only [runCommand, submitKeyCommand, h]

/-- Settles O31: nothing, or one register write and one write of the status. -/
theorem submitKeyEndsAWaitAndNothingElse : Obligations.SubmitKeyEndsAWaitAndNothingElse := by
  intro s id
  refine ⟨fun h => runCommand_submitKey_of_none h id, fun x h => ?_⟩
  rw [runCommand_submitKey_of_some h id, BitVec.ofNat_toNat]
  refine ⟨fun r => s.getV_setV x r _, rfl, rfl, ?_⟩
  exact keepsAllBut_trans (keepsAllBut_mono (by simp) (s.setV_keepsAllBut_regs x _))
    (keepsAllBut_mono (by simp) (updateStatus_keepsAllBut_status _ none true))

/-- Settles O32: one write of the key vector. -/
theorem setKeysWritesOnlyTheKeyVector : Obligations.SetKeysWritesOnlyTheKeyVector :=
  fun s k => ⟨fun _ => rfl, setKeysCommand_keepsAllBut_keys s k⟩

end Sys2Proof.Machine
end

section
/-! Rules over every instruction (10_state.md R31 to R43): what each may write, where each leaves pc, and what each does not
see. -/

namespace Sys2Proof.Machine

open Sys2Proof Sys2Proof.Safety

/-! ### What each instruction may write -/

/-- The parts of the state an instruction may write, beside the advance of pc that comes before it. -/
def writtenParts (i : Instr) : List Part :=
  match i with
  | .cls => [.display]
  | .ret | .call _ => [.stack, .pc]
  | .jp _ | .jpV0 _ | .seImm _ _ | .sneImm _ _ | .seReg _ _ | .sneReg _ _ | .skp _ | .sknp _ => [.pc]
  | .ldImm _ _ | .addImm _ _ | .ldReg _ _ | .orReg _ _ | .andReg _ _ | .xorReg _ _ | .addReg _ _ | .subReg _ _
  | .shr _ _ | .subnReg _ _ | .shl _ _ | .ldVxDT _ | .loadRegs _ => [.regs]
  | .rnd _ _ => [.regs, .draws]
  | .drw _ _ _ => [.regs, .display]
  | .ldVxK _ => [.status]
  | .ldDTVx _ => [.delay]
  | .ldSTVx _ => [.sound]
  | .ldI _ | .addI _ | .ldF _ => [.index]
  | .ldB _ | .storeRegs _ => [.memory]

/-- An instruction keeps every part that it does not write. -/
theorem exec_keepsAllBut_writtenParts {i : Instr} {s t : State} (h : exec i s = .next t) :
    KeepsAllBut (writtenParts i) s t := by
  cases i with
  | cls => cases h; exact s.setFb_keepsAllBut_display _
  | ret => cases h; exact setPc_after_keepsAllBut s.pop_keepsAllBut_stack _
  | call nnn => cases h; exact setPc_after_keepsAllBut (s.push_keepsAllBut_stack s.pc) _
  | jp nnn | jpV0 nnn => cases h; exact s.setPc_keepsAllBut_pc _
  | seImm x kk | sneImm x kk | seReg x y | sneReg x y | skp x | sknp x =>
    cases h
    rw [State.skipIf_eq]
    exact s.setPc_keepsAllBut_pc _
  | ldImm x kk | ldReg x y | orReg x y | andReg x y | xorReg x y | ldVxDT x => cases h; exact s.setV_keepsAllBut_regs x _
  | addImm x kk | addReg x y | subReg x y | shr x y | subnReg x y | shl x y =>
    cases h
    exact s.setResult_keepsAllBut_regs x _ _
  | loadRegs x => cases h; exact s.loadV_keepsAllBut_regs _ _
  | rnd x kk =>
    obtain ⟨-, u, hu, -, -, -, -, hkeeps⟩ := randomWritesMaskedFreshByte s x kk
    cases h.symm.trans hu
    exact hkeeps
  | drw x y n =>
    obtain ⟨-, u, hu, -, -, -, hkeeps⟩ := drawXorsSpriteAndFlagsCollision s x y n
    cases h.symm.trans hu
    exact hkeeps
  | ldVxK x => cases h; exact updateStatus_keepsAllBut_status s (some x) false
  | ldDTVx x => cases h; exact s.setDT_keepsAllBut_delay _
  | ldSTVx x => cases h; exact s.setST_keepsAllBut_sound _
  | ldI nnn | addI x | ldF x => cases h; exact s.setI_keepsAllBut_index _
  | ldB x | storeRegs x => cases h; exact s.memWriteBytes_keepsAllBut_memory _ _

/-- A part that an instruction does not write is kept. -/
theorem exec_keeps {i : Instr} {s t : State} (h : exec i s = .next t) (p : Part) (hp : p ∉ writtenParts i) :
    Keeps p s t :=
  exec_keepsAllBut_writtenParts h p hp

/-- Frame buffers that show the same pixels are the same data. -/
theorem FrameBuffer.eq_of_pixel_eq {fb fb' : FrameBuffer} (h : ∀ c r, fb.pixel c r = fb'.pixel c r) : fb = fb' := by
  apply Vector.ext
  intro c hc
  apply Vector.ext
  intro r hr
  have := h c r
  simpa only [FrameBuffer.pixel, Nat.mod_eq_of_lt hc, Nat.mod_eq_of_lt hr] using this

/-- The cells of memory, not only the bytes they show, change by a store alone. -/
theorem exec_mem_eq {i : Instr} {s t : State} (h : exec i s = .next t) (hi : ∀ x, i ≠ .ldB x ∧ i ≠ .storeRegs x) :
    t.mem = s.mem := by
  cases i with
  | ldB x => exact absurd rfl (hi x).1
  | storeRegs x => exact absurd rfl (hi x).2
  | call nnn => cases h; rw [State.push_eq]; rfl
  | ret => cases h; rw [State.pop_eq]; rfl
  | seImm x kk | sneImm x kk | seReg x y | sneReg x y | skp x | sknp x => cases h; rw [State.skipIf_eq]; rfl
  | loadRegs x => cases h; exact s.loadV_mem _ _
  | _ => cases h; rfl

/-- Settles O42: each clause reads the table of written parts. -/
theorem eachElementHasItsOwnWriters : Obligations.EachElementHasItsOwnWriters := by
  intro i s t h
  refine ⟨exec_keeps h .keys ?_, exec_keeps h .font ?_, exec_mem_eq h,
    fun h1 h2 => FrameBuffer.eq_of_pixel_eq (exec_keeps h .display ?_), fun h1 h2 => exec_keeps h .stack ?_,
    fun h1 h2 => exec_keeps h .index ?_, fun h1 => exec_keeps h .delay ?_, fun h1 => exec_keeps h .sound ?_,
    fun h1 => exec_keeps h .status ?_⟩
  all_goals
    clear h
    cases i <;> simp_all [writtenParts]

/-! ### The flag register and pc -/

/-- A register write that changes VF names VF. -/
theorem eq_flag_of_setV_changes {s : State} {x : Nibble} {val : Byte} (h : (s.setV x val).getV 0xF ≠ s.getV 0xF) :
    x = 0xF := by
  by_contra hx
  exact h (s.getV_setV_of_ne (Ne.symm hx) val)

/-- A block load that changes VF loads up to VF. -/
theorem eq_flag_of_loadV_changes {s : State} {x : Nibble} {a : Nat}
    (h : (s.loadV a (x.toNat + 1)).getV 0xF ≠ s.getV 0xF) : x = 0xF := by
  have hx := x.isLt
  rw [s.getV_loadV _ _ x.isLt] at h
  have hlt : (0xF : Nibble).toNat < x.toNat + 1 := by
    by_contra hge
    exact h (if_neg hge)
  have h15 : (0xF : Nibble).toNat = 15 := rfl
  exact BitVec.eq_of_toNat_eq (by omega)

/-- Settles O43: an instruction that writes no register keeps VF; one that writes Vx alone must name VF. -/
theorem onlyListedInstructionsWriteVf : Obligations.OnlyListedInstructionsWriteVf := by
  intro i s t h hvf
  cases i with
  | addImm x kk | addReg x y | subReg x y | subnReg x y | shr x y | shl x y | drw x y n => trivial
  | ldImm x kk | ldReg x y | orReg x y | andReg x y | xorReg x y | ldVxDT x => cases h; exact eq_flag_of_setV_changes hvf
  | rnd x kk => cases h; exact eq_flag_of_setV_changes (s := s.countDraw) hvf
  | loadRegs x => cases h; exact eq_flag_of_loadV_changes hvf
  | _ => exact hvf (exec_keeps h .regs (by simp [writtenParts]) 0xF)

/-- Settles O40: the control transfers by their equations, every other instruction by the table of written parts. -/
theorem pcAfterEveryInstruction : Obligations.PcAfterEveryInstruction := by
  intro i s t h
  cases i with
  | jp nnn | call nnn | jpV0 nnn => cases h; rfl
  | ret => cases h; exact s.popValue_eq
  | seImm x kk => rw [exec_seImm] at h; cases h; rfl
  | sneImm x kk => rw [exec_sneImm] at h; cases h; simp only [State.setPc_pc, ite_not]
  | seReg x y => rw [exec_seReg] at h; cases h; rfl
  | sneReg x y => rw [exec_sneReg] at h; cases h; simp only [State.setPc_pc, ite_not]
  | skp x => rw [exec_skp] at h; cases h; rfl
  | sknp x => rw [exec_sknp] at h; cases h; cases hk : s.keyDown (keyOf (s.getV x)) <;> simp [hk]
  | _ => exact exec_keeps h .pc (by simp [writtenParts])

/-! ### What an instruction does not see -/

/-- A change of the state in parts that no instruction but the timer, key, stack and random ones reads or writes: every
other operation commutes with it. -/
structure Unseen (f : State → State) : Prop where
  v : ∀ s, (f s).v = s.v
  i : ∀ s, (f s).i = s.i
  pc : ∀ s, (f s).pc = s.pc
  dt : ∀ s, (f s).dt = s.dt
  fb : ∀ s, (f s).fb = s.fb
  byteAt : ∀ s a, (f s).byteAt a = s.byteAt a
  setV : ∀ s x val, (f s).setV x val = f (s.setV x val)
  setI : ∀ s a, (f s).setI a = f (s.setI a)
  setPc : ∀ s a, (f s).setPc a = f (s.setPc a)
  setDT : ∀ s a, (f s).setDT a = f (s.setDT a)
  setFb : ∀ s fb, (f s).setFb fb = f (s.setFb fb)
  awaitKey : ∀ s x, (f s).awaitKey x = f (s.awaitKey x)
  memWriteBytes : ∀ s a bytes, (f s).memWriteBytes a bytes = f (s.memWriteBytes a bytes)

/-- The stack operations commute with a change. -/
structure StackUnseen (f : State → State) : Prop where
  push : ∀ s a, (f s).push a = f (s.push a)
  pop : ∀ s, (f s).pop = f s.pop
  popValue : ∀ s, (f s).popValue = s.popValue

namespace Unseen

variable {f : State → State} (hf : Unseen f)
include hf

theorem getV (s : State) (x : Nibble) : (f s).getV x = s.getV x := State.getV_congr (hf.v s) x

theorem setResult (s : State) (x : Nibble) (result flag : Byte) :
    (f s).setResult x result flag = f (s.setResult x result flag) := by
  rw [State.setResult, State.setFlag, hf.setV, hf.setV]
  rfl

theorem skipIf (s : State) (cond : Bool) : (f s).skipIf cond = f (s.skipIf cond) := by
  rw [State.skipIf_eq, State.skipIf_eq, hf.pc, hf.setPc]

theorem loadV (s : State) (a count : Nat) : (f s).loadV a count = f (s.loadV a count) := by
  induction count with
  | zero => rfl
  | succ k ih => rw [State.loadV, ih, hf.setV, State.memRead, hf.byteAt]; rfl

theorem sprite (d : Drawing) (s : State) (cx cy count : Nat) : d.sprite (f s) cx cy count = d.sprite s cx cy count := by
  induction count with
  | zero => rfl
  | succ k ih => rw [Drawing.sprite, ih, State.memRead, hf.byteAt, State.dataAddr, hf.i]; rfl

theorem draw (s : State) (x y n : Nibble) : (f s).draw x y n = s.draw x y n := by
  rw [State.draw, hf.sprite, hf.fb, hf.getV, hf.getV]
  rfl

/-- An instruction commutes with a change that neither it nor the stack, key, sound or random operation it uses sees. -/
theorem exec_comm {i : Instr} {s t : State} (h : exec i s = .next t)
    (hstack : (i = .ret ∨ ∃ a, i = .call a) → StackUnseen f)
    (hkeys : (∃ x, i = .skp x ∨ i = .sknp x) → ∀ k, (f s).keyDown k = s.keyDown k)
    (hsound : (∃ x, i = .ldSTVx x) → ∀ a, (f s).setST a = f (s.setST a))
    (hrandom : (∃ x kk, i = .rnd x kk) → (f s).draws = s.draws ∧ (f s).countDraw = f s.countDraw) :
    exec i (f s) = .next (f t) := by
  cases i with
  | ret =>
    cases h
    have hs := hstack (.inl rfl)
    rw [exec_ret, hs.pop, hs.popValue, hf.setPc]
  | call nnn =>
    cases h
    rw [exec_call, hf.pc, (hstack (.inr ⟨nnn, rfl⟩)).push, hf.setPc]
  | skp x =>
    cases h
    rw [exec, execSkp, hf.getV, hkeys ⟨x, .inl rfl⟩, hf.skipIf]
  | sknp x =>
    cases h
    rw [exec, execSknp, hf.getV, hkeys ⟨x, .inr rfl⟩, hf.skipIf]
  | ldSTVx x =>
    cases h
    rw [exec_ldSTVx, hf.getV, hsound ⟨x, rfl⟩]
  | rnd x kk =>
    cases h
    obtain ⟨hdraws, hcount⟩ := hrandom ⟨x, kk, rfl⟩
    rw [exec_rnd, hdraws, hcount, hf.setV]
    rfl
  | seImm x kk | sneImm x kk | seReg x y | sneReg x y =>
    cases h
    simp only [exec, execSeImm, execSneImm, execSeReg, execSneReg, hf.getV, hf.skipIf]
  | cls => cases h; rw [exec_cls, hf.setFb]
  | jp nnn => cases h; rw [exec_jp, hf.setPc]
  | jpV0 nnn => cases h; rw [exec_jpV0, hf.getV, hf.setPc]
  | ldImm x kk | ldReg x y | orReg x y | andReg x y | xorReg x y =>
    cases h
    simp only [exec, execLdImm, execLdReg, execOrReg, execAndReg, execXorReg, hf.getV, hf.setV]
  | addImm x kk | addReg x y | subReg x y | subnReg x y | shr x y | shl x y =>
    cases h
    simp only [exec, execAddImm, execAddReg, execSubReg, execSubnReg, execShr, execShl, hf.getV, hf.setResult]
  | drw x y n => cases h; rw [exec_drw, hf.draw, hf.setFb, State.setFlag, hf.setV]; rfl
  | ldI nnn => cases h; rw [exec_ldI, hf.setI]
  | addI x => cases h; rw [exec_addI, hf.i, hf.getV, hf.setI]
  | ldF x => cases h; rw [exec_ldF, hf.getV, hf.setI]
  | ldB x => rw [exec_ldB] at h; cases h; rw [exec_ldB, hf.i, hf.getV, hf.memWriteBytes]
  | storeRegs x => cases h; rw [exec_storeRegs, hf.i, State.firstV, hf.v, hf.memWriteBytes]; rfl
  | loadRegs x => rw [exec_loadRegs] at h; cases h; rw [exec_loadRegs, hf.i, hf.loadV]
  | ldVxDT x => cases h; rw [exec_ldVxDT, hf.dt, hf.setV]
  | ldVxK x => cases h; rw [exec_ldVxK, hf.awaitKey]
  | ldDTVx x => cases h; rw [exec_ldDTVx, hf.getV, hf.setDT]

end Unseen

/-! ### The sound timer, the stack, the keys and the draws as unseen changes, beside `withStack` -/

/-- Another value in ST. -/
def withSound (b : Byte) (s : State) : State := { s with st := b }

/-- Another key vector. -/
def withKeys (k : Vector Bool 16) (s : State) : State := { s with key := k }

/-- Another count of draws. -/
def withDraws (n : Nat) (s : State) : State := { s with draws := n }

theorem withSound_unseen (b : Byte) : Unseen (withSound b) := by constructor <;> intros <;> rfl

theorem withStack_unseen (sp : Nat) (stack : Vector Word 16) : Unseen (withStack sp stack) := by
  constructor <;> intros <;> rfl

theorem withKeys_unseen (k : Vector Bool 16) : Unseen (withKeys k) := by constructor <;> intros <;> rfl

theorem withDraws_unseen (n : Nat) : Unseen (withDraws n) := by constructor <;> intros <;> rfl

/-- A push depends on the stack and its pointer alone. -/
theorem State.push_congr {s t : State} (hsp : t.sp = s.sp) (hstack : t.stack = s.stack) (a : Word) :
    (t.push a).sp = (s.push a).sp ∧ (t.push a).stack = (s.push a).stack := by
  unfold State.push
  rw [hsp, hstack]
  split <;> exact ⟨rfl, rfl⟩

/-- A change that keeps the stack and commutes with replacing it is not seen by the stack operations. -/
theorem stackUnseen_of_comm {f : State → State} (hsp : ∀ s, (f s).sp = s.sp) (hstack : ∀ s, (f s).stack = s.stack)
    (hcomm : ∀ s sp stack, withStack sp stack (f s) = f (withStack sp stack s)) : StackUnseen f where
  push s a := by
    obtain ⟨hpsp, hpstack⟩ := State.push_congr (hsp s) (hstack s) a
    calc (f s).push a = withStack ((f s).push a).sp ((f s).push a).stack (f s) := (f s).push_eq a
      _ = f (withStack (s.push a).sp (s.push a).stack s) := by rw [hpsp, hpstack, hcomm]
      _ = f (s.push a) := congrArg f (s.push_eq a).symm
  pop s :=
    calc (f s).pop = withStack (min ((f s).sp + 1) 16) (f s).stack (f s) := (f s).pop_eq
      _ = f (withStack (min (s.sp + 1) 16) s.stack s) := by rw [hsp, hstack, hcomm]
      _ = f s.pop := congrArg f s.pop_eq.symm
  popValue s := by
    rw [State.popValue_eq, State.popValue_eq]
    simp only [hsp, hstack]

theorem withSound_stackUnseen (b : Byte) : StackUnseen (withSound b) :=
  stackUnseen_of_comm (fun _ => rfl) (fun _ => rfl) fun _ _ _ => rfl

theorem withKeys_stackUnseen (k : Vector Bool 16) : StackUnseen (withKeys k) :=
  stackUnseen_of_comm (fun _ => rfl) (fun _ => rfl) fun _ _ _ => rfl

theorem withDraws_stackUnseen (n : Nat) : StackUnseen (withDraws n) :=
  stackUnseen_of_comm (fun _ => rfl) (fun _ => rfl) fun _ _ _ => rfl

theorem soundActive_iff (s : State) : s.soundActive = true ↔ s.st.toNat ≠ 0 := by
  simp [State.soundActive, BitVec.toNat_eq]

/-- Settles O44: another ST is an unseen change of every instruction but LD ST, Vx, which overwrites it. -/
theorem soundTimerIsReadByNoInstruction : Obligations.SoundTimerIsReadByNoInstruction := by
  intro i s t b h
  refine ⟨?_, soundActive_iff t⟩
  by_cases hi : ∃ x, i = .ldSTVx x
  · obtain ⟨x, rfl⟩ := hi
    cases h
    exact ⟨_, rfl, rfl⟩
  · exact ⟨_, (withSound_unseen b).exec_comm h (fun _ => withSound_stackUnseen b) (fun _ _ => rfl)
      (fun hx => absurd hx hi) (fun _ => ⟨rfl, rfl⟩), rfl⟩

/-- Settles O45: another stack is an unseen change of every instruction but CALL and RET. -/
theorem onlyCallAndRetReachTheStack : Obligations.OnlyCallAndRetReachTheStack := by
  intro i s t sp stack hret hcall h
  exact (withStack_unseen sp stack).exec_comm h (fun hi => absurd hi (by simp [hret, hcall])) (fun _ _ => rfl)
    (fun _ _ => rfl) (fun _ => ⟨rfl, rfl⟩)

/-- Settles O46: another key vector is an unseen change of every instruction but the key skips. -/
theorem onlyKeySkipsReadTheKeys : Obligations.OnlyKeySkipsReadTheKeys := by
  intro i s t k hi h
  exact (withKeys_unseen k).exec_comm h (fun _ => withKeys_stackUnseen k) (fun hx => absurd hx (by simp [hi]))
    (fun _ _ => rfl) (fun _ => ⟨rfl, rfl⟩)

/-- Settles O47: RND alone writes the count of draws, and another count is an unseen change of every other instruction. -/
theorem onlyRandomUsesADraw : Obligations.OnlyRandomUsesADraw := by
  intro i s t n hi h
  constructor
  · refine exec_keeps h .draws ?_
    clear h
    cases i <;> simp_all [writtenParts]
  · exact (withDraws_unseen n).exec_comm h (fun _ => withDraws_stackUnseen n) (fun _ _ => rfl) (fun _ _ => rfl)
      (fun hx => absurd hx (by simp [hi]))

end Sys2Proof.Machine
end

section
/-! RESET, LOAD and the run status (70_reset_and_hazards.md R270 to R274, 40_fetch_decode_execute.md R119). -/

namespace Sys2Proof.Machine

open Sys2Proof Sys2Proof.Safety

/-! ### Reset -/

theorem State.keyDown_resetWith (font : Font) (k : Nibble) : (State.resetWith font).keyDown k = false := by
  simp [State.keyDown, State.resetWith]

theorem State.getV_resetWith (font : Font) (r : Nibble) : (State.resetWith font).getV r = 0 := by
  simp [State.getV, State.resetWith]

theorem State.stack_resetWith (font : Font) (k : Fin 16) : (State.resetWith font).stack[k] = 0 := by
  simp [State.resetWith]

/-- Construction and RESET leave the same state but for the model's count of draws. -/
theorem eq_resetWith_of_reset {font : Font} {t : State}
    (h : t = State.resetWith font ∨ ∃ s : State, s.font = font ∧ runCommand .reset s = (.done, t)) :
    ∃ n, t = withDraws n (State.resetWith font) := by
  rcases h with rfl | ⟨s, rfl, hs⟩
  · exact ⟨0, rfl⟩
  · cases hs
    exact ⟨s.draws, rfl⟩

/-- Settles O48: every element of the reset state has its value, and the count of draws is none of them. -/
theorem resetLeavesTheResetValues : Obligations.ResetLeavesTheResetValues := by
  intro font t h
  obtain ⟨n, rfl⟩ := eq_resetWith_of_reset h
  refine ⟨State.getV_resetWith font, rfl, rfl, State.stack_resetWith font, rfl, rfl, rfl, FrameBuffer.pixel_clear,
    State.keyDown_resetWith font, rfl, rfl, rfl, fun d k hdk => ?_, State.byteAt_resetWith font⟩
  exact (State.byteAt_resetWith font (5 * d + k)).trans (dif_pos (by omega))

/-! ### Load -/

theorem imageFits_iff (bytes : List Byte) : imageFits bytes = true ↔ bytes.length ≤ 3584 := by
  simp [imageFits]

theorem runCommand_load_of_fits (s : State) {bytes : List Byte} (h : bytes.length ≤ 3584) :
    runCommand (.load bytes) s = (.loaded, loadImage s bytes) := by
  rw [runCommand, if_pos ((imageFits_iff bytes).mpr h)]

theorem runCommand_load_of_too_long (s : State) {bytes : List Byte} (h : 3584 < bytes.length) :
    runCommand (.load bytes) s = (.loadError (.programTooLarge bytes.length), s) := by
  have hfits : ¬ imageFits bytes = true := by
    rw [imageFits_iff]
    omega
  rw [runCommand, if_neg hfits]

/-- The image's addresses lie inside memory, so the translator keeps them. -/
theorem xlate_progBase_add {k : Nat} (h : k < 3584) : xlate (Config.progBase + k) = 0x200 + k :=
  Nat.mod_eq_of_lt (by unfold Config.progBase Config.memSize; omega)

theorem byteAt_loadImage_inside (s : State) {bytes : List Byte} (h : bytes.length ≤ 3584) (k : Nat)
    (hk : k < bytes.length) : (loadImage s bytes).byteAt (0x200 + k) = bytes[k] := by
  rw [← xlate_progBase_add (hk.trans_le h)]
  exact (resetCommand s).byteAt_memWriteBytes_inside _ bytes (h.trans (by decide)) k hk

theorem byteAt_loadImage_outside (s : State) {bytes : List Byte} (h : bytes.length ≤ 3584) {a : Nat}
    (ha : a < 0x200 ∨ 0x200 + bytes.length ≤ a) : (loadImage s bytes).byteAt a = (resetCommand s).byteAt a := by
  refine (resetCommand s).byteAt_memWriteBytes_outside _ bytes a fun k hk => ?_
  rw [xlate_progBase_add (hk.trans_le h)]
  omega

theorem byteAt_resetCommand_font (s : State) {a : Nat} (h : a < 80) : (resetCommand s).byteAt a = s.font[a] :=
  dif_pos h

theorem loadImage_keepsAllBut (s : State) (bytes : List Byte) :
    KeepsAllBut [.memory, .status] (resetCommand s) (loadImage s bytes) :=
  keepsAllBut_trans (keepsAllBut_mono (by simp) ((resetCommand s).memWriteBytes_keepsAllBut_memory _ bytes))
    (keepsAllBut_mono (by simp) (updateStatus_keepsAllBut_status _ none true))

/-- Settles O49: a reset, a store of the image and the start, or nothing. -/
theorem loadResetsCopiesAndStartsOrRejects : Obligations.LoadResetsCopiesAndStartsOrRejects := by
  intro s bytes
  refine ⟨runCommand_load_of_too_long s, fun h => ?_⟩
  rw [runCommand_load_of_fits s h]
  refine ⟨rfl, rfl, rfl, byteAt_loadImage_inside s h, fun a ha => ?_, fun a ha => byteAt_loadImage_outside s h ha,
    loadImage_keepsAllBut s bytes⟩
  exact (byteAt_loadImage_outside s h (.inl (by omega))).trans (byteAt_resetCommand_font s ha)

/-! ### The run status -/

theorem State.runStatus_congr {s t : State} (hrun : t.running = s.running) (hkey : t.pendingKey = s.pendingKey) :
    t.runStatus = s.runStatus := by
  rw [State.runStatus, State.runStatus, hrun, hkey]

theorem State.runStatus_eq_unloaded_iff (s : State) :
    s.runStatus = some .unloaded ↔ s.running = false ∧ s.pendingKey = none := by
  unfold State.runStatus
  cases s.running <;> cases s.pendingKey <;> simp

theorem State.runStatus_eq_ready_iff (s : State) :
    s.runStatus = some .ready ↔ s.running = true ∧ s.pendingKey = none := by
  unfold State.runStatus
  cases s.running <;> cases s.pendingKey <;> simp

theorem State.runStatus_eq_waitingForKey_iff (s : State) :
    s.runStatus = some .waitingForKey ↔ s.running = false ∧ ∃ x, s.pendingKey = some x := by
  unfold State.runStatus
  cases s.running <;> cases s.pendingKey <;> simp

theorem State.runStatus_ne_none_iff (s : State) :
    s.runStatus ≠ none ↔ ¬(s.running = true ∧ s.pendingKey.isSome = true) := by
  unfold State.runStatus
  cases s.running <;> cases s.pendingKey <;> simp

theorem tickCommand_runStatus (s : State) : (tickCommand s).runStatus = s.runStatus := by
  unfold tickCommand
  split <;> rfl

/-- A Ready STEP that runs no key wait leaves the machine Ready, errors included. -/
theorem runStatus_stepCommand_of_ready {s : State} (hr : s.runStatus = some .ready)
    (h : 4094 < s.pc.toNat ∨ ∀ x, decodeWord s.fetch16 ≠ some (.ldVxK x)) :
    (stepCommand s).2.runStatus = some .ready := by
  have hready := s.isReady_eq_true_iff.mpr (s.runStatus_eq_ready_iff.mp hr)
  cases hb : s.fetchInBounds with
  | false => rw [(step_of_out_of_bounds hready hb).2, hr]
  | true =>
    cases hd : decodeWord s.fetch16 with
    | none => rw [(step_of_illegal hready hb hd).2]; exact hr
    | some i =>
      have hwait : ∀ x, i ≠ .ldVxK x := by
        rintro x rfl
        have hpc := s.fetchInBounds_eq_true_iff.mp hb
        exact h.elim (fun hgt => absurd hpc (by omega)) fun hno => hno x hd
      obtain ⟨hrun, hkey⟩ : Keeps .status s.advance (stateAfter (exec i s.advance) s) :=
        exec_keeps (by rw [exec_eq_next i s.advance]; rfl) .status (by cases i <;> simp_all [writtenParts])
      rw [(step_of_decoded hready hb hd).2, ← hr]
      exact State.runStatus_congr hrun hkey

/-- Settles O50: the clauses one by one, from what each command does. -/
theorem runStatusFollowsTheStateMachine : Obligations.RunStatusFollowsTheStateMachine := by
  intro s hinv
  refine ⟨s.runStatus_ne_none_iff.mpr hinv.status, rfl, fun bytes h => ?_, fun bytes h => ?_, fun k => rfl,
    tickCommand_runStatus s, fun hun => ?_, fun hwait => ?_, fun hr => ⟨fun id => ?_, fun x hpc hd => ?_, ?_⟩⟩
  · rw [runCommand_load_of_fits s h]
    rfl
  · rw [runCommand_load_of_too_long s h]
  · obtain ⟨hrun, hkey⟩ := s.runStatus_eq_unloaded_iff.mp hun
    exact ⟨runCommand_step_or_tick_of_not_running hrun (.inl rfl),
      runCommand_step_or_tick_of_not_running hrun (.inr rfl),
      fun id => congrArg Prod.snd (runCommand_submitKey_of_none hkey id)⟩
  · obtain ⟨hrun, x, hkey⟩ := s.runStatus_eq_waitingForKey_iff.mp hwait
    refine ⟨?_, fun id => ?_⟩
    · rw [runCommand, (step_of_not_ready (s.isReady_eq_false_iff.mpr (.inl hrun))).2]
    · rw [runCommand_submitKey_of_some hkey id]
      rfl
  · obtain ⟨-, hkey⟩ := s.runStatus_eq_ready_iff.mp hr
    rw [runCommand_submitKey_of_none hkey id]
  · have hready := s.isReady_eq_true_iff.mpr (s.runStatus_eq_ready_iff.mp hr)
    rw [runCommand, (step_of_decoded hready (s.fetchInBounds_eq_true_iff.mpr hpc) hd).2]
    rfl
  · exact runStatus_stepCommand_of_ready hr

end Sys2Proof.Machine
end

section
/-! The invariant (10_state.md R35, R37, R44, R49): it holds at reset, every instruction and every command keeps it. -/

namespace Sys2Proof.Machine

open Sys2Proof Sys2Proof.Safety

/-! ### Canonical memories (log entry 2) -/

/-- A canonical memory lists exactly the cells whose value is read there and is not the reset contents. -/
theorem Memory.mem_iff_read {font : Font} {m : Memory} (h : Memory.wf font m) (c : Host.Cell) :
    c ∈ m ↔ Memory.read font m c.1 = c.2 ∧ c.2 ≠ Memory.unlisted font c.1 := by
  constructor
  · exact fun hc => ⟨Memory.read_of_mem font h.1 hc, (h.2 c hc).2⟩
  · rintro ⟨hread, hne⟩
    by_contra hc
    have habsent : ∀ d ∈ m, d.1 ≠ c.1 := by
      intro d hd heq
      have hval : d.2 = c.2 := by rw [← Memory.read_of_mem font h.1 hd, heq, hread]
      exact hc (Prod.ext heq hval ▸ hd)
    exact hne (hread.symm.trans (Memory.read_of_absent font m c.1 habsent))

/-- Settles O54: the reads decide which cells are listed, and the order of the addresses decides the list. -/
theorem canonicalMemoriesThatReadAlikeAreEqual : Obligations.CanonicalMemoriesThatReadAlikeAreEqual := by
  intro font m m' h h' hread
  have hmem : ∀ c, c ∈ m ↔ c ∈ m' := fun c => by
    rw [Memory.mem_iff_read h, Memory.mem_iff_read h', hread]
  have hnodup {l : Memory} (hl : l.Pairwise fun c d => c.1 < d.1) : l.Nodup :=
    hl.imp fun hlt heq => absurd (congrArg Prod.fst heq) hlt.ne
  exact ((List.perm_ext_iff_of_nodup (hnodup h.1) (hnodup h'.1)).mpr hmem).eq_of_pairwise
    (fun _ _ _ _ hab hba => absurd hab hba.asymm) h.1 h'.1

/-! ### What each clause of the invariant needs of an instruction -/

/-- Memory stays canonical: a store keeps the form, and nothing else touches memory or the font. -/
theorem exec_memWf {i : Instr} {s t : State} (h : exec i s = .next t) (hwf : Memory.wf s.font s.mem) :
    Memory.wf t.font t.mem := by
  cases i with
  | ldB x | storeRegs x => cases h; exact Memory.writeBytes_wf hwf _ _
  | _ =>
    have hfont : t.font = s.font := exec_keeps h .font (by simp [writtenParts])
    rw [hfont, exec_mem_eq h (by simp)]
    exact hwf

/-- The stack pointer stays at most 16: a push and a pop clamp it (R130). -/
theorem exec_spLe {i : Instr} {s t : State} (h : exec i s = .next t) (hsp : s.sp ≤ 16) : t.sp ≤ 16 := by
  cases i with
  | ret => cases h; rw [State.setPc_sp, s.pop_sp]; omega
  | call nnn => cases h; rw [State.setPc_sp, s.push_sp]; omega
  | _ =>
    obtain ⟨hkeep, -⟩ : Keeps .stack s t := exec_keeps h .stack (by simp [writtenParts])
    exact hkeep.le.trans hsp

/-- No instruction runs on while a key is pending: a key wait stops the machine (R219). -/
theorem exec_status {i : Instr} {s t : State} (h : exec i s = .next t)
    (hs : ¬(s.running = true ∧ s.pendingKey.isSome = true)) : ¬(t.running = true ∧ t.pendingKey.isSome = true) := by
  cases i with
  | ldVxK x => cases h; simp
  | _ =>
    obtain ⟨hrun, hkey⟩ : Keeps .status s t := exec_keeps h .status (by simp [writtenParts])
    rw [hrun, hkey]
    exact hs

/-- Stacked addresses stay at most 4096: CALL stacks the advanced pc. -/
theorem exec_stackLe {i : Instr} {s t : State} (h : exec i s = .next t) (hpc : s.pc.toNat ≤ 4096)
    (hstack : ∀ k : Fin 16, (s.stack[k]).toNat ≤ 4096) (k : Fin 16) : (t.stack[k]).toNat ≤ 4096 := by
  cases i with
  | call nnn =>
    cases h
    rw [State.setPc_stack, s.push_entry]
    split
    · exact hpc
    · exact hstack k
  | ret => cases h; rw [State.setPc_stack, s.pop_stack]; exact hstack k
  | _ =>
    obtain ⟨-, hkeep⟩ : Keeps .stack s t := exec_keeps h .stack (by simp [writtenParts])
    rw [hkeep]
    exact hstack k

/-- Every target lies at or below 0x10FE, the largest sum of JP V0, nnn (R35). -/
theorem exec_pcLe {i : Instr} {s t : State} (h : exec i s = .next t) (hpc : s.pc.toNat ≤ 4096)
    (hstack : ∀ k : Fin 16, (s.stack[k]).toNat ≤ 4096) : t.pc.toNat ≤ 0x10FE := by
  have hskip : (s.pc + 2).toNat ≤ 0x10FE := by
    rw [BitVec.toNat_add, show (2 : Word).toNat = 2 from rfl]
    omega
  have hstay : s.pc.toNat ≤ 0x10FE := hpc.trans (by decide)
  cases i with
  | jp nnn | call nnn =>
    cases h
    have hn := nnn.isLt
    rw [State.setPc_pc, toNat_addrWord]
    omega
  | jpV0 nnn =>
    cases h
    have hn := nnn.isLt
    have hv := (s.getV 0).isLt
    rw [State.setPc_pc, toNat_offsetTarget]
    omega
  | ret =>
    cases h
    rw [State.setPc_pc, s.popValue_eq]
    split
    next hlt => exact (hstack ⟨s.sp, hlt⟩).trans (by decide)
    next => decide
  | seImm x kk | sneImm x kk | seReg x y | sneReg x y | skp x | sknp x =>
    cases h
    rw [State.skipIf_eq, State.setPc_pc]
    split
    · exact hskip
    · exact hstay
  | _ =>
    have hkeep : t.pc = s.pc := exec_keeps h .pc (by simp [writtenParts])
    rw [hkeep]
    exact hstay

/-! ### One step -/

/-- A fetch happens at most at 4094, so the advanced pc is at most 4096. -/
theorem State.toNat_advance_pc {s : State} (h : s.pc.toNat ≤ 4094) : s.advance.pc.toNat = s.pc.toNat + 2 := by
  rw [State.advance_pc, BitVec.toNat_add, show (2 : Word).toNat = 2 from rfl]
  omega

theorem inv_advance {s : State} (h : Inv s) (hpc : s.pc.toNat ≤ 4094) : Inv s.advance where
  memWf := h.memWf
  spLe := h.spLe
  status := h.status
  stackLe := h.stackLe
  pcLe := by
    rw [State.toNat_advance_pc hpc]
    omega

/-- An instruction run after a fetch keeps the invariant. -/
theorem inv_exec {i : Instr} {s t : State} (hs : Inv s) (hpc : s.pc.toNat ≤ 4096) (h : exec i s = .next t) : Inv t where
  memWf := exec_memWf h hs.memWf
  spLe := exec_spLe h hs.spLe
  status := exec_status h hs.status
  stackLe := exec_stackLe h hpc hs.stackLe
  pcLe := exec_pcLe h hpc hs.stackLe

/-- The STEP command keeps the invariant, after an error too. -/
theorem inv_stepCommand {s : State} (hs : Inv s) : Inv (stepCommand s).2 := by
  rcases stepCommand_state s with hsame | ⟨hpc, hadvanced | ⟨i, hexec⟩⟩
  · rw [hsame]
    exact hs
  · rw [hadvanced]
    exact inv_advance hs hpc
  · exact inv_exec (inv_advance hs hpc) (by rw [State.toNat_advance_pc hpc]; omega) hexec

/-- The next state of a step is the one the STEP command leaves. -/
theorem stepCommand_of_step {s t : State} (h : step s = .next t) : (stepCommand s).2 = t := by
  rw [stepOutcomeAgreesWithStepCommand s] at h
  split at h
  · exact Host.Outcome.next.inj h
  · exact Host.Outcome.next.inj h
  · cases h

/-- Settles O52: the step's next state is the STEP command's, which keeps the invariant. -/
theorem everyStepKeepsTheInvariant : Obligations.EveryStepKeepsTheInvariant := by
  intro s t hs h
  rw [← stepCommand_of_step h]
  exact inv_stepCommand hs

/-! ### Every command -/

theorem inv_resetWith (font : Font) : Inv (State.resetWith font) where
  memWf := Memory.reset_wf font
  spLe := le_rfl
  status := by simp [State.resetWith]
  stackLe k := by rw [State.stack_resetWith]; decide
  pcLe := by simp [State.resetWith]

/-- Settles O51: the reset state with the default font. -/
theorem resetMeetsTheInvariant : Obligations.ResetMeetsTheInvariant := inv_resetWith standardFont

theorem inv_resetCommand (s : State) : Inv (resetCommand s) := by
  obtain ⟨hmem, hsp, hstatus, hstack, hpc⟩ := inv_resetWith s.font
  exact ⟨hmem, hsp, hstatus, hstack, hpc⟩

/-- Running with no key pending meets the status clause, whatever was pending before. -/
theorem inv_start {s : State} (h : Inv s) : Inv { s with pendingKey := none, running := true } :=
  ⟨h.memWf, h.spLe, by simp, h.stackLe, h.pcLe⟩

theorem inv_memWriteBytes {s : State} (h : Inv s) (a : Nat) (bytes : List Byte) : Inv (s.memWriteBytes a bytes) :=
  ⟨Memory.writeBytes_wf h.memWf a bytes, h.spLe, h.status, h.stackLe, h.pcLe⟩

theorem inv_setV {s : State} (h : Inv s) (x : Nibble) (val : Byte) : Inv (s.setV x val) :=
  ⟨h.memWf, h.spLe, h.status, h.stackLe, h.pcLe⟩

theorem inv_tickCommand {s : State} (h : Inv s) : Inv (tickCommand s) := by
  unfold tickCommand
  split
  · exact ⟨h.memWf, h.spLe, h.status, h.stackLe, h.pcLe⟩
  · exact h

theorem inv_runCommand (c : Command) {s : State} (h : Inv s) : Inv (runCommand c s).2 := by
  cases c with
  | reset => exact inv_resetCommand s
  | load bytes =>
    by_cases hfits : bytes.length ≤ 3584
    · rw [runCommand_load_of_fits s hfits]
      exact inv_start (inv_memWriteBytes (inv_resetCommand s) _ bytes)
    · rw [runCommand_load_of_too_long s (not_le.mp hfits)]
      exact h
  | step => exact inv_stepCommand h
  | tick => exact inv_tickCommand h
  | setKeys k => exact ⟨h.memWf, h.spLe, h.status, h.stackLe, h.pcLe⟩
  | submitKey id =>
    cases hkey : s.pendingKey with
    | none => rw [runCommand_submitKey_of_none hkey]; exact h
    | some x => rw [runCommand_submitKey_of_some hkey]; exact inv_start (inv_setV h x _)

/-! ### The font -/

theorem font_stepCommand (s : State) : (stepCommand s).2.font = s.font := by
  rcases stepCommand_state s with hsame | ⟨-, hadvanced | ⟨i, hexec⟩⟩
  · rw [hsame]
  · rw [hadvanced, State.advance_font]
  · exact exec_keeps hexec .font (by cases i <;> simp [writtenParts])

theorem font_runCommand (c : Command) (s : State) : (runCommand c s).2.font = s.font := by
  cases c with
  | load bytes =>
    by_cases hfits : bytes.length ≤ 3584
    · rw [runCommand_load_of_fits s hfits]; rfl
    · rw [runCommand_load_of_too_long s (not_le.mp hfits)]
  | step => exact font_stepCommand s
  | tick => exact (tickCountsBothTimersDownToZero s).2.2.2 .font (by simp)
  | submitKey id =>
    cases hkey : s.pendingKey with
    | none => rw [runCommand_submitKey_of_none hkey]
    | some x => rw [runCommand_submitKey_of_some hkey]; rfl
  | reset | setKeys k => rfl

/-! ### Every list of commands -/

/-- What every command keeps, every list of commands keeps, under either error policy. -/
theorem runCommands_induction {P : State → Prop} (hP : ∀ c s, P s → P (runCommand c s).2) (haltsOnError : Bool)
    (cs : List Command) {s : State} (hs : P s) : P (runCommands haltsOnError cs s).2 := by
  induction cs generalizing s with
  | nil => exact hs
  | cons c cs ih =>
    rw [runCommands]
    split
    · exact hP c s hs
    · exact ih (hP c s hs)

/-- Settles O53: both are kept by every command. -/
theorem everyCommandListKeepsTheInvariant : Obligations.EveryCommandListKeepsTheInvariant := by
  intro haltsOnError cs s
  constructor
  · exact runCommands_induction (fun c _ => inv_runCommand c) haltsOnError cs
  · exact runCommands_induction (P := fun t => t.font = s.font) (fun c t ht => (font_runCommand c t).trans ht)
      haltsOnError cs rfl

end Sys2Proof.Machine
end
